-- ==== Sys2Proof/Word.lean ====
section
/-!
DEFINITION. The word types of the block: bytes, 32-bit counters and masks, the 16-bit port word (00_scope.md section 5,
30_encoding.md R50).
-/

namespace Sys2Proof

/-- `u8` (00_scope.md section 5). -/
abbrev Byte := BitVec 8

/-- `u32`: tick values, masks, drop counters (00_scope.md section 5, R9, R11). -/
abbrev U32 := BitVec 32

/-- A port request word (30_encoding.md R50). -/
abbrev PortWord := BitVec 16

/-- A byte string; its byte 0 is received and sent first (20_memory.md R40). -/
abbrev Bytes := List Byte

end Sys2Proof
end

