-- ==== Sys2Proof/Syntax.lean ====
section
/-!
DEFINITION. The agents, and the instructions: one constructor of `Instr` for each row of spec/opcode_table.json.
-/

namespace Sys2Proof

/-- The agents that issue port transactions (00_scope.md R4). The environment's `rst` is no transaction (R154). -/
inductive Agent where
  | tickSrc
  | hostRx
  | slaveRx
  | button
  | consumer
  deriving DecidableEq, Repr

/-- An effect record that `DISPATCH` returns (30_encoding.md R63): its code and the fields of R63's table. A code uses only the
fields R63 gives it; `ind` is also the field `keep` of `EFF_JOB_REMOVE_EXCEPT`, `bytes` the field `payload` or `value`. -/
structure EffectRec where
  code : Byte
  tbl : Byte := 0
  target : Byte := 0
  ind : Byte := 0
  all : Bool := false
  mask : U32 := 0
  bytes : Bytes := []
  deriving DecidableEq, Repr

/-- The two slave-link frames that carry the service code `SLAVE (0x85)` (30_encoding.md R57). -/
inductive SlaveLinkFrame where
  /-- `SL_LED_FRAME(t, i)`, "set LED". -/
  | led (target ind : Byte)
  /-- `SL_OFF_FRAME`, "broadcast off". -/
  | off
  deriving DecidableEq, Repr

/-- The rows of spec/opcode_table.json, in the table's order: port transactions (R50), reserved `OP` values (R52), host frames
(R54, R62), slave frames (R56), frames the block makes (R57, R59) and effects (R63). In a frame, `g` is GROUP, `a` is ADDR and `p`
the payload after SC; `content` is the byte string a parser collected (START, LEN and END left out). -/
inductive Instr where
  | tick
  | hrx (b : Byte)
  | srx (b : Byte)
  | btn (bits : Byte)
  | slqPop
  | pxqPop
  | stPeek
  | stSent
  | slqDrops
  | pxqDrops
  | reservedOp0 (low : BitVec 12)
  | reservedOpB (low : BitVec 12)
  | reservedOpC (low : BitVec 12)
  | reservedOpD (low : BitVec 12)
  | reservedOpE (low : BitVec 12)
  | reservedOpF (low : BitVec 12)
  | scPoll (g a : Byte) (p : Bytes)
  | scLedCtrl (g a : Byte) (p : Bytes)
  | scOneshotLedReset (g a : Byte) (p : Bytes)
  | scMapUpload (g a : Byte) (p : Bytes)
  | scLedReset (g a : Byte) (p : Bytes)
  | scRelaySet (g a : Byte) (p : Bytes)
  | scBtnReset (g a : Byte) (p : Bytes)
  | scPxMask (g a : Byte) (p : Bytes)
  | scStatusReplyReceived (g a : Byte) (p : Bytes)
  | hostUnrecognised (content : Bytes)
  | slaveStatusReply (addr state : Byte)
  | slaveIgnoredShape (content : Bytes)
  | slaveIgnoredValue (addr state : Byte)
  | slaveLinkFrameSent (frame : SlaveLinkFrame)
  | statusFrameSent
  | effMapUpload (payload : Bytes)
  | effJobStart (tbl target ind : Byte)
  | effJobStopInd (tbl ind : Byte)
  | effJobStopAll (tbl : Byte)
  | effJobRemoveExcept (tbl target keep : Byte)
  | effBcastReq (tbl : Byte)
  | effOneshotSet (all : Bool) (mask : U32)
  | effForceSet (mask : U32)
  | effRelaySet (value : Bytes)
  | effBtnReset
  | effPxMask (value : Bytes)
  | reservedEffect (code : Byte)
  deriving DecidableEq, Repr

end Sys2Proof
end

