-- ==== Sys2Proof/Config.lean ====
section
/-!
DEFINITION. The constants of 00_scope.md R9 and the parameters of R7 as plain data. A parameter that is a function (a frame
builder, `DISPATCH`) is held as a table that says its value for every argument: Machine/Params.lean reads the tables and says
which configurations are well-formed.
-/

namespace Sys2Proof

/-! The constants of 00_scope.md R9. -/

/-- `START`, R9. -/
def START : Byte := 0x27#8
/-- `END`, R9. -/
def END : Byte := 0x16#8
/-- `SC_SLAVE`, R9: the service code of the slave-link "set LED" and "broadcast off" frames. -/
def SC_SLAVE : Byte := 0x85#8
/-- `ST_ALERT`, R9. -/
def ST_ALERT : Byte := 0x01#8
/-- `MAP_ACTIVE`, R9. -/
def MAP_ACTIVE : Byte := 0x01#8
/-- `ADDR_MIN`, R9. -/
def ADDR_MIN : Nat := 1
/-- `ADDR_MAX`, R9. -/
def ADDR_MAX : Nat := 31
/-- `MIN_PERIOD_TICKS`, R7 and R9. -/
def MIN_PERIOD_TICKS : U32 := 1#32
/-- `PX_FRAME_MAX`, R7 and R9. -/
def PX_FRAME_MAX : Nat := 192

/-- One byte of a frame builder's general layout: a fixed byte, or one of the builder's arguments. -/
inductive FrameByte where
  | lit (b : Byte)
  | arg0
  | arg1
  deriving DecidableEq, Repr

/-- A frame parameter `F(x, y)` (R7) as data: the frames listed for single arguments in `special`, and for every other argument
the layout `slots`. Every function from bytes to byte strings is one of these, since `special` may list every argument. -/
structure FrameFn where
  slots : List FrameByte
  special : List (Byte × Byte × Bytes) := []
  deriving DecidableEq, Repr

/-- How a row of the dispatch table computes a byte field of an effect record. -/
inductive ByteExpr where
  | lit (b : Byte)
  | payload (k : Nat)
  | group
  | addr
  deriving DecidableEq, Repr

/-- How a row of the dispatch table computes a mask: a fixed value, or four payload bytes from index `k` on, least significant
byte first (`le32`) or last (`be32`). The byte order of such a field is the table's, 20_memory.md R40. -/
inductive MaskExpr where
  | lit (m : U32)
  | le32 (k : Nat)
  | be32 (k : Nat)
  deriving DecidableEq, Repr

/-- How a row of the dispatch table computes the one-bit field `all`: a fixed value or bit 0 of a payload byte. -/
inductive BitExpr where
  | lit (b : Bool)
  | bit0 (k : Nat)
  deriving DecidableEq, Repr

/-- How a row of the dispatch table computes a byte string: fixed, or the payload from index `k` on. -/
inductive BytesExpr where
  | lit (bs : Bytes)
  | payloadFrom (k : Nat)
  deriving DecidableEq, Repr

/-- An effect record with its fields computed from the frame. The code and the table selector are fixed bytes, so that the
constraints on them (R63, R125) can be checked once for every frame. -/
structure EffectTemplate where
  code : Byte
  tbl : Byte := 0
  target : ByteExpr := .lit 0
  ind : ByteExpr := .lit 0
  all : BitExpr := .lit false
  mask : MaskExpr := .lit 0
  bytes : BytesExpr := .lit []
  deriving DecidableEq, Repr

/-- A row of the parameter `DISPATCH` as data (46_host_commands.md R123): the frames it is for and the effect records it gives
them. `none` admits every byte or payload; `conds` lists payload bytes and the values they must have. Every pure function of
`sc`, `g`, `a` and `payload` is such a table, since a row may name all four exactly and there are finitely many frames. -/
structure DispatchRow where
  sc : Byte
  group : Option Byte := none
  addr : Option Byte := none
  payload : Option Bytes := none
  minLen : Nat := 0
  conds : List (Nat × Byte) := []
  effects : List EffectTemplate
  deriving DecidableEq, Repr

/-- The implementation parameters of 00_scope.md R7, under the names R7 gives them. -/
structure Params where
  maxCfg : Nat
  idleTicks : Nat
  slSlots : Nat
  pxSlots : Nat
  slFrameMax : Nat
  slJobs : Nat
  pxJobs : Nat
  hostRxCap : Nat
  slaveRxCap : Nat
  statusBufCap : Nat
  groupApp : Byte
  devAddr : Byte
  trailer : Bytes
  scStatusReply : Byte
  scSlaveStatus : Byte
  trigSentinel : Byte
  stIdle : Byte
  stAlive : Byte
  stTrig : Byte
  scPoll : Byte
  scLedCtrl : Byte
  scOneshotLedReset : Byte
  scMapUpload : Byte
  scLedReset : Byte
  scRelaySet : Byte
  scBtnReset : Byte
  scPxMask : Byte
  /-- The service codes of dom(DISPATCH) beyond the named ones (46_host_commands.md R125). -/
  furtherCodes : List Byte
  /-- The open part of `DISPATCH`: the first row that admits a frame gives its list; a frame of dom(DISPATCH) that no row admits
  gets the empty list. -/
  dispatchRows : List DispatchRow
  /-- `SL_POLL_FRAME(a)`, with `a` as the first argument and 0 as the second. -/
  slPollFrame : FrameFn
  slLedFrame : FrameFn
  slOffFrame : Bytes
  pxLedFrame : FrameFn
  pxOffFrame : Bytes
  deriving DecidableEq, Repr

/-- Effect records that stop every job of both tables and request both broadcasts, as 95_test_vectors.md section 2 lists them. -/
def ledResetTemplates : List EffectTemplate :=
  [⟨0x04, 0, .lit 0, .lit 0, .lit false, .lit 0, .lit []⟩, ⟨0x04, 1, .lit 0, .lit 0, .lit false, .lit 0, .lit []⟩,
   ⟨0x06, 0, .lit 0, .lit 0, .lit false, .lit 0, .lit []⟩, ⟨0x06, 1, .lit 0, .lit 0, .lit false, .lit 0, .lit []⟩]

/-- The rows of the TC `DISPATCH` for `LED_CTRL` and one table: the payload is `[mode, tbl, t, i, ...]`
(95_test_vectors.md section 2). -/
def ledCtrlRows (tbl : Byte) : List DispatchRow :=
  [{ sc := 0x81, minLen := 4, conds := [(0, 1), (1, tbl)],
     effects := [{ code := 0x02, tbl := tbl, target := .payload 2, ind := .payload 3 }] },
   { sc := 0x81, minLen := 4, conds := [(0, 2), (1, tbl)],
     effects := [{ code := 0x02, tbl := tbl, target := .payload 2, ind := .payload 3 },
                 { code := 0x05, tbl := tbl, target := .payload 2, ind := .payload 3 }] },
   { sc := 0x81, minLen := 4, conds := [(0, 3), (1, tbl)],
     effects := [{ code := 0x03, tbl := tbl, ind := .payload 3 }] }]

/-- The test configuration TC of 95_test_vectors.md section 2, whole. `State.reset` holds it: DESIGN CHOICE, log 2. No rule of the
block depends on it. -/
def testConfiguration : Params where
  maxCfg := 4
  idleTicks := 5
  slSlots := 8
  pxSlots := 8
  slFrameMax := 8
  slJobs := 3
  pxJobs := 3
  hostRxCap := 32
  slaveRxCap := 8
  statusBufCap := 32
  groupApp := 0x01
  devAddr := 0x00
  trailer := [0x0D]
  scStatusReply := 0x87
  scSlaveStatus := 0x90
  trigSentinel := 0x02
  stIdle := 0x00
  stAlive := 0x02
  stTrig := 0x03
  scPoll := 0x80
  scLedCtrl := 0x81
  scOneshotLedReset := 0x82
  scMapUpload := 0x83
  scLedReset := 0x84
  scRelaySet := 0x86
  scBtnReset := 0x88
  scPxMask := 0x89
  furtherCodes := [0x8A]
  dispatchRows :=
    ledCtrlRows 0 ++ ledCtrlRows 1 ++
    [{ sc := 0x82, minLen := 5,
       effects := { code := 0x07, all := .bit0 0, mask := .le32 1 } :: ledResetTemplates },
     { sc := 0x84, effects := ledResetTemplates },
     { sc := 0x86, effects := [{ code := 0x09, bytes := .payloadFrom 0 }] },
     { sc := 0x88, effects := [{ code := 0x0A }] },
     { sc := 0x89, effects := [{ code := 0x0B, bytes := .payloadFrom 0 }] },
     { sc := 0x8A, minLen := 4, effects := [{ code := 0x08, mask := .le32 0 }] }]
  slPollFrame := { slots := [.lit 0x27, .lit 0x03, .lit 0x02, .arg0, .lit 0x80, .lit 0x16] }
  slLedFrame := { slots := [.lit 0x27, .lit 0x04, .lit 0x02, .arg0, .lit 0x85, .arg1, .lit 0x16] }
  slOffFrame := [0x27, 0x04, 0x02, 0x00, 0x85, 0x00, 0x16]
  pxLedFrame := { slots := [.lit 0x27, .lit 0x04, .lit 0x03, .arg0, .lit 0x85, .arg1, .lit 0x16] }
  pxOffFrame := [0x27, 0x03, 0x03, 0x00, 0x8F, 0x16]

end Sys2Proof
end

