-- ==== Sys2Proof/Machine/Params.lean ====
section
/-!
DEFINITION. Connector addresses (00_scope.md R12), and reading the configuration: the frame builders (30_encoding.md R57, R58),
`DISPATCH` (46_host_commands.md R123 to R125), and which configurations are well-formed (00_scope.md R8, 30_encoding.md R63).
-/

namespace Sys2Proof

/-! ## Connector addresses -/

/-- A connector address that has a mask bit (00_scope.md R12). -/
abbrev AddrOk (a : Byte) : Prop := ADDR_MIN ≤ a.toNat ∧ a.toNat ≤ ADDR_MAX

/-- A status reply that updates the masks (42_parsers.md R91, R92). -/
abbrev ReplyCounts (addr state : Byte) : Prop := AddrOk addr ∧ state ≠ 0#8

/-! ## Frame builders -/

/-- One byte of a frame layout for the arguments `x` and `y`. -/
def FrameByte.value (x y : Byte) : FrameByte → Byte
  | .lit b => b
  | .arg0 => x
  | .arg1 => y

/-- The frame `F(x, y)` that a frame parameter returns (00_scope.md R7). -/
def FrameFn.frame (f : FrameFn) (x y : Byte) : Bytes :=
  match f.special.find? (fun e => e.1 = x ∧ e.2.1 = y) with
  | some e => e.2.2
  | none => f.slots.map (FrameByte.value x y)

/-- `SL_POLL_FRAME(a)`, R57. -/
def Params.slPoll (p : Params) (a : Byte) : Bytes := p.slPollFrame.frame a 0#8

/-- `SL_LED_FRAME(t, i)`, R57. -/
def Params.slLed (p : Params) (t i : Byte) : Bytes := p.slLedFrame.frame t i

/-- `PX_LED_FRAME(t, i)`, R58. -/
def Params.pxLed (p : Params) (t i : Byte) : Bytes := p.pxLedFrame.frame t i

/-- The bytes of a slave-link frame that carries `SC_SLAVE` (R57). -/
def Params.slaveLink (p : Params) : SlaveLinkFrame → Bytes
  | .led t i => p.slLed t i
  | .off => p.slOffFrame

/-! ## The status frame's sizes (30_encoding.md R59) -/

/-- `TRAILER_LEN`. -/
def Params.trailerLen (p : Params) : Nat := p.trailer.length

/-- The value of the status frame's LEN field, `4 + MAX_CFG + TRAILER_LEN`. -/
def Params.statusLen (p : Params) : Nat := 4 + p.maxCfg + p.trailerLen

/-- The status frame's total length, `7 + MAX_CFG + TRAILER_LEN`. -/
def Params.statusTotal (p : Params) : Nat := 7 + p.maxCfg + p.trailerLen

/-! ## `DISPATCH` -/

/-- The named service codes of dom(DISPATCH) (46_host_commands.md R124, R125). -/
def Params.namedCodes (p : Params) : List Byte :=
  [p.scPoll, p.scLedCtrl, p.scOneshotLedReset, p.scMapUpload, p.scLedReset, p.scRelaySet, p.scBtnReset, p.scPxMask]

/-- `sc` is in dom(DISPATCH) (R124: `SC_STATUS_REPLY` is kept out of it). -/
abbrev Params.InDom (p : Params) (sc : Byte) : Prop :=
  sc ≠ p.scStatusReply ∧ (sc ∈ p.namedCodes ∨ sc ∈ p.furtherCodes)

/-- Byte `k` of the payload, for a row that reads it. -/
def payloadByte (payload : Bytes) (k : Nat) : Byte := payload.getD k 0#8

/-- The value of a byte field. -/
def ByteExpr.value (g a : Byte) (payload : Bytes) : ByteExpr → Byte
  | .lit b => b
  | .payload k => payloadByte payload k
  | .group => g
  | .addr => a

/-- Four bytes as a 32-bit value, the first argument the most significant. -/
def wordOfBytes (b3 b2 b1 b0 : Byte) : U32 := b3 ++ b2 ++ b1 ++ b0

/-- The value of a mask field. -/
def MaskExpr.value (payload : Bytes) : MaskExpr → U32
  | .lit m => m
  | .le32 k => wordOfBytes (payloadByte payload (k + 3)) (payloadByte payload (k + 2)) (payloadByte payload (k + 1))
      (payloadByte payload k)
  | .be32 k => wordOfBytes (payloadByte payload k) (payloadByte payload (k + 1)) (payloadByte payload (k + 2))
      (payloadByte payload (k + 3))

/-- The value of the field `all`. -/
def BitExpr.value (payload : Bytes) : BitExpr → Bool
  | .lit b => b
  | .bit0 k => (payloadByte payload k).getLsbD 0

/-- The value of a byte-string field. -/
def BytesExpr.value (payload : Bytes) : BytesExpr → Bytes
  | .lit bs => bs
  | .payloadFrom k => payload.drop k

/-- The effect record a row gives a frame. -/
def EffectTemplate.record (t : EffectTemplate) (g a : Byte) (payload : Bytes) : EffectRec where
  code := t.code
  tbl := t.tbl
  target := t.target.value g a payload
  ind := t.ind.value g a payload
  all := t.all.value payload
  mask := t.mask.value payload
  bytes := t.bytes.value payload

/-- The row is for this frame. -/
def DispatchRow.admits (r : DispatchRow) (sc g a : Byte) (payload : Bytes) : Bool :=
  r.sc = sc && (r.group = none || r.group = some g) && (r.addr = none || r.addr = some a) &&
    (r.payload = none || r.payload = some payload) && decide (r.minLen ≤ payload.length) &&
    r.conds.all (fun c => payload[c.1]? = some c.2)

/-- The list the open part of `DISPATCH` gives a frame of its domain: the first row that admits it, else the empty list. -/
def Params.openDispatch (p : Params) (sc g a : Byte) (payload : Bytes) : List EffectRec :=
  match p.dispatchRows.find? (fun r => r.admits sc g a payload) with
  | some r => r.effects.map (fun t => t.record g a payload)
  | none => []

/-- `DISPATCH(sc, g, a, payload)`, `none` outside its domain: the two entries and the excluded code of R124, and the open part. -/
def Params.dispatch (p : Params) (sc g a : Byte) (payload : Bytes) : Option (List EffectRec) :=
  if ¬ p.InDom sc then none
  else if sc = p.scMapUpload then some [{ code := 0x01#8, bytes := payload }]
  else if sc = p.scPoll then some []
  else some (p.openDispatch sc g a payload)

/-! ## Well-formed configurations -/

/-- The effect codes of R63; the others are reserved. -/
def effectCodes : List Byte := [0x01#8, 0x02#8, 0x03#8, 0x04#8, 0x05#8, 0x06#8, 0x07#8, 0x08#8, 0x09#8, 0x0A#8, 0x0B#8]

/-- The effect codes whose records have the field `tbl` (R63). -/
def tblCodes : List Byte := [0x02#8, 0x03#8, 0x04#8, 0x05#8, 0x06#8]

/-- The table selector of an effect record is 0 or 1 where the code has one (30_encoding.md R63, 46_host_commands.md section 2). -/
abbrev SelectorOk (code tbl : Byte) : Prop := code ∈ tblCodes → tbl = 0#8 ∨ tbl = 1#8

/-- An effect record with a code of R63 and, where it has a selector, one in 0..1. -/
abbrev EffectRec.Ok (e : EffectRec) : Prop := e.code ∈ effectCodes ∧ SelectorOk e.code e.tbl

/-- The effect codes the list of a service code of the open part may hold (46_host_commands.md R125). -/
def Params.allowedEffects (p : Params) (sc : Byte) : List Byte :=
  if sc = p.scLedCtrl then [0x02#8, 0x03#8, 0x04#8, 0x05#8, 0x06#8]
  else if sc = p.scOneshotLedReset then [0x07#8, 0x08#8, 0x03#8, 0x04#8, 0x05#8, 0x06#8]
  else if sc = p.scLedReset then [0x03#8, 0x04#8, 0x05#8, 0x06#8]
  else if sc = p.scRelaySet then [0x09#8]
  else if sc = p.scBtnReset then [0x0A#8]
  else if sc = p.scPxMask then [0x0B#8]
  else effectCodes

/-- The sizes obey 00_scope.md R8. -/
abbrev Params.SizesOk (p : Params) : Prop :=
  1 ≤ p.maxCfg ∧ p.statusLen ≤ 255 ∧ 1 ≤ p.idleTicks ∧ p.idleTicks ≤ 2 ^ 31 - 1 ∧ 2 ≤ p.slSlots ∧ 2 ≤ p.pxSlots ∧
    1 ≤ p.slJobs ∧ 1 ≤ p.pxJobs ∧ 1 ≤ p.hostRxCap ∧ p.hostRxCap ≤ 255 ∧ 3 ≤ p.slaveRxCap ∧ p.slaveRxCap ≤ 255

/-- The codes obey 00_scope.md R8 and 46_host_commands.md R124, R125: the trigger sentinel is not zero, the four status codes are
distinct, the named service codes are distinct and differ from `SC_STATUS_REPLY`, which no further code equals. -/
abbrev Params.CodesOk (p : Params) : Prop :=
  p.trigSentinel ≠ 0#8 ∧ [p.stIdle, p.stAlive, p.stTrig, ST_ALERT].Nodup ∧ (p.scStatusReply :: p.namedCodes).Nodup ∧
    p.scStatusReply ∉ p.furtherCodes

/-- Every frame the builder returns has length 1 to `max` (00_scope.md R8). DESIGN CHOICE, log 14: the check is of the table, so it asks
the same of a layout or a listed frame that no argument reaches, which R8 does not. -/
abbrev FrameFn.LengthsOk (f : FrameFn) (max : Nat) : Prop :=
  (1 ≤ f.slots.length ∧ f.slots.length ≤ max) ∧ ∀ e ∈ f.special, 1 ≤ e.2.2.length ∧ e.2.2.length ≤ max

/-- Every frame the builder returns carries `SC_SLAVE` (30_encoding.md R57; "carries" is read as "has it among its bytes", log 11).
DESIGN CHOICE, log 14: the layout and every listed frame are checked, also those that no argument reaches. -/
abbrev FrameFn.CarriesSlave (f : FrameFn) : Prop := .lit SC_SLAVE ∈ f.slots ∧ ∀ e ∈ f.special, SC_SLAVE ∈ e.2.2

/-- The frame parameters obey 00_scope.md R8 and 30_encoding.md R57, R58. -/
abbrev Params.FramesOk (p : Params) : Prop :=
  p.slPollFrame.LengthsOk p.slFrameMax ∧ p.slLedFrame.LengthsOk p.slFrameMax ∧
    (1 ≤ p.slOffFrame.length ∧ p.slOffFrame.length ≤ p.slFrameMax) ∧ p.pxLedFrame.LengthsOk PX_FRAME_MAX ∧
    (1 ≤ p.pxOffFrame.length ∧ p.pxOffFrame.length ≤ PX_FRAME_MAX) ∧
    p.slLedFrame.CarriesSlave ∧ SC_SLAVE ∈ p.slOffFrame

/-- A row of the open part of `DISPATCH` obeys 30_encoding.md R63 and 46_host_commands.md R124, R125. -/
abbrev Params.RowOk (p : Params) (r : DispatchRow) : Prop :=
  p.InDom r.sc ∧ r.sc ≠ p.scPoll ∧ r.sc ≠ p.scMapUpload ∧
    ∀ t ∈ r.effects, t.code ∈ p.allowedEffects r.sc ∧ SelectorOk t.code t.tbl

/-- The conditions on a configuration (00_scope.md R8, 30_encoding.md R57, R63, 46_host_commands.md R124, R125). -/
abbrev Params.Conditions (p : Params) : Prop := p.SizesOk ∧ p.CodesOk ∧ p.FramesOk ∧ ∀ r ∈ p.dispatchRows, p.RowOk r

/-- The configuration is well-formed. A model refuses every other (00_scope.md R8). -/
def Params.ok (p : Params) : Bool := decide p.Conditions

end Sys2Proof
end

