-- ==== Sys2Proof/WellFormed.lean ====
section
/-!
DEFINITION. Which terms of `Instr` stand for an encoding the spec defines, in a configuration: the LEN of a frame fits its channel
(42_parsers.md R82), a frame belongs to the row it is written as (42_parsers.md R90, R91, 46_host_commands.md R126), a table
selector is 0 or 1 (30_encoding.md R63), and a reserved effect code is one of the reserved ones (R63).
-/

namespace Sys2Proof

/-- A received host frame with three header bytes and this payload passes the parser's length check (30_encoding.md R54,
42_parsers.md R82). -/
abbrev Params.HostFits (p : Params) (payload : Bytes) : Prop := payload.length + 3 ≤ p.hostRxCap

/-- The content is taken by the unrecognised arm (46_host_commands.md R126), `SC_STATUS_REPLY` apart, which has a row of its own. -/
abbrev Params.Unrecognised (p : Params) (content : Bytes) : Prop :=
  content.length < 3 ∨ ¬ p.InDom (content.getD 2 0#8) ∧ content.getD 2 0#8 ≠ p.scStatusReply

/-- The content has the shape of a status reply (42_parsers.md R90). -/
abbrev Params.StatusShape (p : Params) (content : Bytes) : Prop :=
  content.length = 3 ∧ content.getD 0 0#8 = p.scSlaveStatus

/-- The instruction is well-formed in the configuration `p`. -/
def Instr.wellFormed (p : Params) : Instr → Bool
  | .tick => true
  | .hrx _ => true
  | .srx _ => true
  | .btn _ => true
  | .slqPop => true
  | .pxqPop => true
  | .stPeek => true
  | .stSent => true
  | .slqDrops => true
  | .pxqDrops => true
  | .reservedOp0 _ => true
  | .reservedOpB _ => true
  | .reservedOpC _ => true
  | .reservedOpD _ => true
  | .reservedOpE _ => true
  | .reservedOpF _ => true
  | .scPoll _ _ pl => decide (p.HostFits pl)
  | .scLedCtrl _ _ pl => decide (p.HostFits pl)
  | .scOneshotLedReset _ _ pl => decide (p.HostFits pl)
  | .scMapUpload _ _ pl => decide (p.HostFits pl)
  | .scLedReset _ _ pl => decide (p.HostFits pl)
  | .scRelaySet _ _ pl => decide (p.HostFits pl)
  | .scBtnReset _ _ pl => decide (p.HostFits pl)
  | .scPxMask _ _ pl => decide (p.HostFits pl)
  | .scStatusReplyReceived _ _ pl => decide (p.HostFits pl)
  | .hostUnrecognised f => decide (1 ≤ f.length ∧ f.length ≤ p.hostRxCap ∧ p.Unrecognised f)
  | .slaveStatusReply a s => decide (ReplyCounts a s)
  | .slaveIgnoredShape f => decide (1 ≤ f.length ∧ f.length ≤ p.slaveRxCap ∧ ¬ p.StatusShape f)
  | .slaveIgnoredValue a s => decide (¬ ReplyCounts a s)
  | .slaveLinkFrameSent _ => true
  | .statusFrameSent => true
  | .effMapUpload _ => true
  | .effJobStart tbl _ _ => decide (SelectorOk 0x02#8 tbl)
  | .effJobStopInd tbl _ => decide (SelectorOk 0x03#8 tbl)
  | .effJobStopAll tbl => decide (SelectorOk 0x04#8 tbl)
  | .effJobRemoveExcept tbl _ _ => decide (SelectorOk 0x05#8 tbl)
  | .effBcastReq tbl => decide (SelectorOk 0x06#8 tbl)
  | .effOneshotSet _ _ => true
  | .effForceSet _ => true
  | .effRelaySet _ => true
  | .effBtnReset => true
  | .effPxMask _ => true
  | .reservedEffect code => decide (code ∉ effectCodes)

end Sys2Proof
end

