-- ==== Sys2Proof/Decode.lean ====
section
/-!
DEFINITION. The decoder and the encoder for the three kinds of encoding of 30_encoding.md: port request words (R50, R52), wire
frames (R54, R56, R57, R59) and effect records (R63). The decoder is total and rejects by name.
-/

namespace Sys2Proof

/-- Why an encoding stands for no instruction. -/
inductive DecodeError where
  /-- A port word with `RES ≠ 0` (R52). -/
  | nonzeroRes
  /-- A port word with `DATA ≠ 0` where it must be zero (R52). -/
  | nonzeroData
  /-- A port word issued by another agent than its row's (R52). -/
  | wrongAgent
  /-- A wire frame that does not begin with START, LEN (R54, R56). -/
  | badStart
  /-- A wire frame whose LEN is 0 or above the channel's capacity (42_parsers.md R82). -/
  | badLength
  /-- A wire frame with another number of bytes than its LEN says (R61). -/
  | badSize
  /-- A wire frame without END where END is due (42_parsers.md R84). -/
  | badEnd
  /-- A host frame whose code is a further code of dom(DISPATCH), for which the table has no row (46_host_commands.md R125, log 20). -/
  | furtherCode (sc : Byte)
  /-- A request for a slave-link frame in no form of the model's (log 11). -/
  | badSlaveLink
  /-- A request for a status frame under another code than `SC_STATUS_REPLY`. -/
  | badStatusCode
  /-- An effect record whose table selector is not 0 or 1 (R63). -/
  | badSelector
  deriving DecidableEq, Repr

/-! ## Port words -/

/-- Field `OP`, bits 15..12 (R50). -/
def portOp (w : PortWord) : BitVec 4 := w.extractLsb' 12 4

/-- Field `RES`, bits 11..8 (R50). -/
def portRes (w : PortWord) : BitVec 4 := w.extractLsb' 8 4

/-- Field `DATA`, bits 7..0 (R50, R53). -/
def portData (w : PortWord) : Byte := w.extractLsb' 0 8

/-- Bits 11..0 of a word with a reserved `OP`. -/
def portLow (w : PortWord) : BitVec 12 := w.extractLsb' 0 12

/-- A word whose `DATA` must be zero, issued by `a`, in the row of `owner` (R50, R52). -/
def plainWord (a owner : Agent) (w : PortWord) (i : Instr) : Except DecodeError Instr :=
  if portRes w ≠ 0#4 then .error .nonzeroRes
  else if portData w ≠ 0#8 then .error .nonzeroData
  else if a ≠ owner then .error .wrongAgent
  else .ok i

/-- A word whose `DATA` is an operand byte, issued by `a`, in the row of `owner` (R50, R52, R53). -/
def operandWord (a owner : Agent) (w : PortWord) (i : Byte → Instr) : Except DecodeError Instr :=
  if portRes w ≠ 0#4 then .error .nonzeroRes
  else if a ≠ owner then .error .wrongAgent
  else .ok (i (portData w))

/-- The instruction of a port word issued by agent `a`. A word with a reserved `OP` is one of the reserved rows, whoever issues it. -/
def decodePort (a : Agent) (w : PortWord) : Except DecodeError Instr :=
  match (portOp w).toNat with
  | 0 => .ok (.reservedOp0 (portLow w))
  | 1 => plainWord a .tickSrc w .tick
  | 2 => operandWord a .hostRx w .hrx
  | 3 => operandWord a .slaveRx w .srx
  | 4 => operandWord a .button w .btn
  | 5 => plainWord a .consumer w .slqPop
  | 6 => plainWord a .consumer w .pxqPop
  | 7 => plainWord a .consumer w .stPeek
  | 8 => plainWord a .consumer w .stSent
  | 9 => plainWord a .consumer w .slqDrops
  | 10 => plainWord a .consumer w .pxqDrops
  | 11 => .ok (.reservedOpB (portLow w))
  | 12 => .ok (.reservedOpC (portLow w))
  | 13 => .ok (.reservedOpD (portLow w))
  | 14 => .ok (.reservedOpE (portLow w))
  | _ => .ok (.reservedOpF (portLow w))

/-- The agent R50's table gives an `OP`; for a reserved `OP`, which has none, the consumer stands in. -/
def ownerOfOp (op : BitVec 4) : Agent :=
  match op.toNat with
  | 1 => .tickSrc
  | 2 => .hostRx
  | 3 => .slaveRx
  | 4 => .button
  | _ => .consumer

/-! ## Wire frames -/

/-- The content of a received wire frame: the `LEN` bytes between LEN and END (R54, R61). -/
def unframe (cap : Nat) : Bytes → Except DecodeError Bytes
  | start :: len :: rest =>
    if start ≠ START then .error .badStart
    else if len = 0#8 ∨ cap < len.toNat then .error .badLength
    else if rest.length ≠ len.toNat + 1 then .error .badSize
    else if rest.getLast? ≠ some END then .error .badEnd
    else .ok (rest.take len.toNat)
  | _ => .error .badStart

/-- The wire frame of a content: START, LEN, the content, END (R54, R56). -/
def frameOf (content : Bytes) : Bytes := START :: BitVec.ofNat 8 content.length :: (content ++ [END])

/-- How a service code is taken (46_host_commands.md R124 to R126). -/
inductive HostCode where
  | poll
  | ledCtrl
  | oneshotLedReset
  | mapUpload
  | ledReset
  | relaySet
  | btnReset
  | pxMask
  | statusReply
  /-- In dom(DISPATCH), but none of the named codes (R125). -/
  | further
  /-- Not in dom(DISPATCH) (R126). -/
  | unknown
  deriving DecidableEq, Repr

/-- The service code's kind. In a well-formed configuration the codes compared are distinct. -/
def Params.hostCode (p : Params) (sc : Byte) : HostCode :=
  if sc = p.scStatusReply then .statusReply
  else if sc = p.scPoll then .poll
  else if sc = p.scLedCtrl then .ledCtrl
  else if sc = p.scOneshotLedReset then .oneshotLedReset
  else if sc = p.scMapUpload then .mapUpload
  else if sc = p.scLedReset then .ledReset
  else if sc = p.scRelaySet then .relaySet
  else if sc = p.scBtnReset then .btnReset
  else if sc = p.scPxMask then .pxMask
  else if sc ∈ p.furtherCodes then .further
  else .unknown

/-- The row a completed host frame belongs to (R54, R62; 46_host_commands.md R124 to R126). -/
def decodeHost (p : Params) : Bytes → Except DecodeError Instr
  | g :: a :: sc :: payload =>
    match p.hostCode sc with
    | .poll => .ok (.scPoll g a payload)
    | .ledCtrl => .ok (.scLedCtrl g a payload)
    | .oneshotLedReset => .ok (.scOneshotLedReset g a payload)
    | .mapUpload => .ok (.scMapUpload g a payload)
    | .ledReset => .ok (.scLedReset g a payload)
    | .relaySet => .ok (.scRelaySet g a payload)
    | .btnReset => .ok (.scBtnReset g a payload)
    | .pxMask => .ok (.scPxMask g a payload)
    | .statusReply => .ok (.scStatusReplyReceived g a payload)
    | .further => .error (.furtherCode sc)
    | .unknown => .ok (.hostUnrecognised (g :: a :: sc :: payload))
  | content => .ok (.hostUnrecognised content)

/-- The row a completed slave frame belongs to (R56; 42_parsers.md R90, R91). -/
def decodeSlave (p : Params) : Bytes → Instr
  | [sc, addr, state] =>
    if sc ≠ p.scSlaveStatus then .slaveIgnoredShape [sc, addr, state]
    else if ReplyCounts addr state then .slaveStatusReply addr state
    else .slaveIgnoredValue addr state
  | content => .slaveIgnoredShape content

/-- A request for a slave-link frame that carries `SC_SLAVE`: that code, then the model's own form byte (0 "broadcast off", 1 "set
LED") and the two arguments (log 11). -/
def decodeSlaveLink : Bytes → Except DecodeError Instr
  | [sc, form, t, i] =>
    if sc ≠ SC_SLAVE then .error .badSlaveLink
    else if form = 1#8 then .ok (.slaveLinkFrameSent (.led t i))
    else if form = 0#8 ∧ t = 0#8 ∧ i = 0#8 then .ok (.slaveLinkFrameSent .off)
    else .error .badSlaveLink
  | _ => .error .badSlaveLink

/-! ## Effect records -/

/-- An instruction of a code that has a table selector (R63). -/
def selected (tbl : Byte) (i : Instr) : Except DecodeError Instr :=
  if tbl = 0#8 ∨ tbl = 1#8 then .ok i else .error .badSelector

/-- The row an effect record belongs to (R63). -/
def decodeEffect (e : EffectRec) : Except DecodeError Instr :=
  match e.code.toNat with
  | 1 => .ok (.effMapUpload e.bytes)
  | 2 => selected e.tbl (.effJobStart e.tbl e.target e.ind)
  | 3 => selected e.tbl (.effJobStopInd e.tbl e.ind)
  | 4 => selected e.tbl (.effJobStopAll e.tbl)
  | 5 => selected e.tbl (.effJobRemoveExcept e.tbl e.target e.ind)
  | 6 => selected e.tbl (.effBcastReq e.tbl)
  | 7 => .ok (.effOneshotSet e.all e.mask)
  | 8 => .ok (.effForceSet e.mask)
  | 9 => .ok (.effRelaySet e.bytes)
  | 10 => .ok .effBtnReset
  | 11 => .ok (.effPxMask e.bytes)
  | _ => .ok (.reservedEffect e.code)

/-! ## All encodings together -/

/-- An encoding of one of the kinds of 30_encoding.md. -/
inductive Encoded where
  /-- A port word and the agent that issues it (R50). -/
  | port (agent : Agent) (w : PortWord)
  /-- A frame on the host-command channel (R54). -/
  | hostFrame (bytes : Bytes)
  /-- A frame on the slave-reply channel (R56). -/
  | slaveFrame (bytes : Bytes)
  /-- A slave-link frame the block makes (R57, log 11). -/
  | slaveLink (bytes : Bytes)
  /-- The status frame the block makes, by its service code (R59, log 12). -/
  | statusFrame (sc : Byte)
  /-- An effect record (R63). -/
  | effect (e : EffectRec)
  deriving DecidableEq, Repr

/-- The instruction of an encoding. -/
def decode (p : Params) : Encoded → Except DecodeError Instr
  | .port a w => decodePort a w
  | .hostFrame bytes =>
    match unframe p.hostRxCap bytes with
    | .ok content => decodeHost p content
    | .error e => .error e
  | .slaveFrame bytes =>
    match unframe p.slaveRxCap bytes with
    | .ok content => .ok (decodeSlave p content)
    | .error e => .error e
  | .slaveLink bytes => decodeSlaveLink bytes
  | .statusFrame sc => if sc = p.scStatusReply then .ok .statusFrameSent else .error .badStatusCode
  | .effect e => decodeEffect e

/-! ## The encoder -/

/-- The port word with this `OP` and `DATA` and `RES = 0` (R50, R65). -/
def portWordOf (op : BitVec 4) (data : Byte) : PortWord := op ++ (0#4 ++ data)

/-- The port word with a reserved `OP` and these low bits. -/
def reservedWordOf (op : BitVec 4) (low : BitVec 12) : PortWord := op ++ low

/-- The host frame of a service code (R54). -/
def hostFrameOf (sc g a : Byte) (payload : Bytes) : Encoded := .hostFrame (frameOf (g :: a :: sc :: payload))

/-- The encoding of an instruction, from the tables of 30_encoding.md. -/
def encode (p : Params) : Instr → Encoded
  | .tick => .port .tickSrc (portWordOf 0x1#4 0#8)
  | .hrx b => .port .hostRx (portWordOf 0x2#4 b)
  | .srx b => .port .slaveRx (portWordOf 0x3#4 b)
  | .btn bits => .port .button (portWordOf 0x4#4 bits)
  | .slqPop => .port .consumer (portWordOf 0x5#4 0#8)
  | .pxqPop => .port .consumer (portWordOf 0x6#4 0#8)
  | .stPeek => .port .consumer (portWordOf 0x7#4 0#8)
  | .stSent => .port .consumer (portWordOf 0x8#4 0#8)
  | .slqDrops => .port .consumer (portWordOf 0x9#4 0#8)
  | .pxqDrops => .port .consumer (portWordOf 0xA#4 0#8)
  | .reservedOp0 low => .port .consumer (reservedWordOf 0x0#4 low)
  | .reservedOpB low => .port .consumer (reservedWordOf 0xB#4 low)
  | .reservedOpC low => .port .consumer (reservedWordOf 0xC#4 low)
  | .reservedOpD low => .port .consumer (reservedWordOf 0xD#4 low)
  | .reservedOpE low => .port .consumer (reservedWordOf 0xE#4 low)
  | .reservedOpF low => .port .consumer (reservedWordOf 0xF#4 low)
  | .scPoll g a pl => hostFrameOf p.scPoll g a pl
  | .scLedCtrl g a pl => hostFrameOf p.scLedCtrl g a pl
  | .scOneshotLedReset g a pl => hostFrameOf p.scOneshotLedReset g a pl
  | .scMapUpload g a pl => hostFrameOf p.scMapUpload g a pl
  | .scLedReset g a pl => hostFrameOf p.scLedReset g a pl
  | .scRelaySet g a pl => hostFrameOf p.scRelaySet g a pl
  | .scBtnReset g a pl => hostFrameOf p.scBtnReset g a pl
  | .scPxMask g a pl => hostFrameOf p.scPxMask g a pl
  | .scStatusReplyReceived g a pl => hostFrameOf p.scStatusReply g a pl
  | .hostUnrecognised f => .hostFrame (frameOf f)
  | .slaveStatusReply addr state => .slaveFrame (frameOf [p.scSlaveStatus, addr, state])
  | .slaveIgnoredShape f => .slaveFrame (frameOf f)
  | .slaveIgnoredValue addr state => .slaveFrame (frameOf [p.scSlaveStatus, addr, state])
  | .slaveLinkFrameSent (.led t i) => .slaveLink [SC_SLAVE, 1#8, t, i]
  | .slaveLinkFrameSent .off => .slaveLink [SC_SLAVE, 0#8, 0#8, 0#8]
  | .statusFrameSent => .statusFrame p.scStatusReply
  | .effMapUpload payload => .effect { code := 0x01#8, bytes := payload }
  | .effJobStart tbl t i => .effect { code := 0x02#8, tbl := tbl, target := t, ind := i }
  | .effJobStopInd tbl i => .effect { code := 0x03#8, tbl := tbl, ind := i }
  | .effJobStopAll tbl => .effect { code := 0x04#8, tbl := tbl }
  | .effJobRemoveExcept tbl t keep => .effect { code := 0x05#8, tbl := tbl, target := t, ind := keep }
  | .effBcastReq tbl => .effect { code := 0x06#8, tbl := tbl }
  | .effOneshotSet all mask => .effect { code := 0x07#8, all := all, mask := mask }
  | .effForceSet mask => .effect { code := 0x08#8, mask := mask }
  | .effRelaySet value => .effect { code := 0x09#8, bytes := value }
  | .effBtnReset => .effect { code := 0x0A#8 }
  | .effPxMask value => .effect { code := 0x0B#8, bytes := value }
  | .reservedEffect code => .effect { code := code }

/-! ## The host's reading of the opcode table -/

/-- The instruction of a row of spec/opcode_table.json that fixes bits: a 16-bit port word, issued by the agent of its `OP`; or an
8-bit row, where 0x85 is the service code of the slave-link row (with zero operands: "broadcast off") and every other byte an effect
code (with zero operands). Log 19. -/
def decodeTableWord (nbits w : Nat) : Option Instr :=
  if nbits = 16 then
    (decodePort (ownerOfOp (portOp (BitVec.ofNat 16 w))) (BitVec.ofNat 16 w)).toOption
  else if nbits = 8 then
    if BitVec.ofNat 8 w = SC_SLAVE then (decodeSlaveLink [SC_SLAVE, 0#8, 0#8, 0#8]).toOption
    else (decodeEffect { code := BitVec.ofNat 8 w }).toOption
  else none

end Sys2Proof
end

