-- ==== Sys2Proof/Machine/State.lean ====
section
/-!
DEFINITION. The state of the block (10_state.md), the inputs presented to it and its observation, as plain data; its reset value
(10_state.md R37); and the reasons a step can stop.
-/

namespace Sys2Proof.Machine

/-- The state of a byte parser (42_parsers.md R80). -/
inductive ParserState where
  | waitStart
  | waitLen
  | collect
  | waitEnd
  deriving DecidableEq, Repr

/-- A byte parser (10_state.md R28). -/
structure Parser where
  state : ParserState
  len : Byte
  idx : Byte
  buf : Bytes
  deriving DecidableEq, Repr

/-- A transmit ring buffer (10_state.md R29). -/
structure Queue where
  slot : List Bytes
  head : Nat
  tail : Nat
  drops : U32
  deriving DecidableEq, Repr

/-- One slot of an LED job table (10_state.md R30). -/
structure Job where
  target : Byte
  ind : Byte
  next : U32
  active : Bool
  deriving DecidableEq, Repr

/-- An LED job table: its slots and the round-robin cursor (10_state.md R30). -/
structure JobTable where
  slots : List Job
  cur : Nat
  deriving DecidableEq, Repr

/-- An output event (00_scope.md R10). -/
inductive Event where
  /-- `px.clear_all()` -/
  | pxClearAll
  /-- `px.request_flush()` -/
  | pxRequestFlush
  /-- `px.set_mask_and_clear_others(bytes)` -/
  | pxSetMask (bytes : Bytes)
  /-- `relay.set(bytes)` -/
  | relaySet (bytes : Bytes)
  deriving DecidableEq, Repr

/-- A response (30_encoding.md R51). -/
inductive Response where
  | ack
  | illegal
  | empty
  | frame (bytes : Bytes)
  | value (v : U32)
  deriving DecidableEq, Repr

/-- One element of the observation of a run (00_scope.md R10): an output event, or a response and the agent it is returned to. -/
inductive Obs where
  | event (e : Event)
  | resp (agent : Agent) (r : Response)
  deriving DecidableEq, Repr

/-- What the outside presents to the block: a port transaction of an agent, or the reset input (00_scope.md R4, 70 R154). -/
inductive PortInput where
  | word (agent : Agent) (w : PortWord)
  | rst
  deriving DecidableEq, Repr

/-- The internal arrays of 20_memory.md R38. -/
inductive ArrayName where
  | cfg
  | stBuf
  | hpBuf
  | spBuf
  | slqSlot
  | pxqSlot
  | sljSlot
  | pxjSlot
  deriving DecidableEq, Repr

/-- The faults. -/
inductive Fault where
  /-- `MemRead`, `MemWrite` with an index outside the array: "A model that meets one must fault" (20_memory.md R39). Raised by every
  operation of Machine/Ops.lean that reaches an internal array. Safe: no rule gives the access an effect, and no state that meets
  `State.BoundsOk` raises it. -/
  | indexOutOfRange (a : ArrayName) (i : Nat)
  deriving DecidableEq, Repr

/-- The refusals. -/
inductive Refusal where
  /-- Raised by an arm of `exec` whose instruction has no meaning yet; no arm raises it now. Safe. -/
  | notModelled (mnemonic : String)
  /-- A configuration that is not well-formed: "A model refuses a configuration that breaks any of them" (00_scope.md R8, also
  46_host_commands.md R125). Raised by `step`. Safe: the spec defines no behaviour for it. -/
  | illFormedConfig
  /-- A reserved effect code: "A `DISPATCH` that returns a reserved code makes the configuration ill-formed, and the model refuses
  that configuration" (30_encoding.md R63). Raised by applying the record. Safe, as above. -/
  | reservedEffectCode (code : Byte)
  /-- An effect record whose `tbl` is not 0 or 1: "is ill-formed, and the model refuses the `DISPATCH` that returns it"
  (46_host_commands.md section 2). Raised by applying the record. Safe, as above. -/
  | badTableSelector (tbl : Byte)
  deriving DecidableEq, Repr

/-- The state. The first four fields are the model's own (logs 1, 3, 4); the others are the block's, under the names of 10_state.md. -/
structure State where
  /-- The configuration of 00_scope.md R7. No step writes it. -/
  params : Params
  /-- The inputs presented and not yet accepted, in the order `ARB` accepts them (00_scope.md R6). -/
  port : List PortInput
  /-- The agent whose transaction is executed. -/
  issuer : Agent
  /-- The observation of the run so far, oldest first (00_scope.md R10). -/
  obs : List Obs
  /-- R15 -/
  tick : U32
  /-- R16 -/
  lastActivity : U32
  /-- R17 -/
  idleCleared : Bool
  /-- R18 -/
  bcastPendSl : Bool
  /-- R18 -/
  bcastPendPx : Bool
  /-- R19 -/
  ledActive : Bool
  /-- R20 -/
  pollCur : Nat
  /-- R21 -/
  roundAlive : U32
  /-- R21 -/
  roundTrig : U32
  /-- R22 -/
  alive : U32
  /-- R22 -/
  trig : U32
  /-- R23 -/
  cfg : Bytes
  /-- R23 -/
  cfgCount : Nat
  /-- R24 -/
  oneshotAll : Bool
  /-- R24 -/
  oneshotMask : U32
  /-- R25 -/
  forceTrig : U32
  /-- R26 -/
  statusExt : Byte
  /-- R27 -/
  stBuf : Bytes
  /-- R27 -/
  stLen : Nat
  /-- R28, the host-command parser -/
  hp : Parser
  /-- R28, the slave-reply parser -/
  sp : Parser
  /-- R29, the slave-link queue -/
  slq : Queue
  /-- R29, the pixel-strip queue -/
  pxq : Queue
  /-- R30, the slave-link job table -/
  slj : JobTable
  /-- R30, the pixel-strip job table -/
  pxj : JobTable
  deriving DecidableEq, Repr

/-- A parser at reset (R28, R37). -/
def Parser.reset (cap : Nat) : Parser where
  state := .waitStart
  len := 0#8
  idx := 0#8
  buf := List.replicate cap 0#8

/-- A queue at reset (R29, R37). -/
def Queue.reset (slots : Nat) : Queue where
  slot := List.replicate slots []
  head := 0
  tail := 0
  drops := 0#32

/-- A job table at reset (R30, R37). -/
def JobTable.reset (jobs : Nat) : JobTable where
  slots := List.replicate jobs { target := 0#8, ind := 0#8, next := 0#32, active := false }
  cur := 0

/-- The block right after reset, in the configuration `p` (10_state.md R37), with nothing presented and nothing observed yet. -/
def State.resetWith (p : Params) : State where
  params := p
  port := []
  issuer := .consumer
  obs := []
  tick := 0#32
  lastActivity := 0#32
  idleCleared := false
  bcastPendSl := false
  bcastPendPx := false
  ledActive := false
  pollCur := 0
  roundAlive := 0#32
  roundTrig := 0#32
  alive := 0#32
  trig := 0#32
  cfg := List.replicate p.maxCfg 0#8
  cfgCount := 0
  oneshotAll := false
  oneshotMask := 0#32
  forceTrig := 0#32
  statusExt := 0#8
  stBuf := List.replicate p.statusBufCap 0#8
  stLen := 0
  hp := Parser.reset p.hostRxCap
  sp := Parser.reset p.slaveRxCap
  slq := Queue.reset p.slSlots
  pxq := Queue.reset p.pxSlots
  slj := JobTable.reset p.slJobs
  pxj := JobTable.reset p.pxJobs

/-- The machine right after reset: `State.resetWith` of the test configuration (DESIGN CHOICE, log 2). -/
def State.reset : State := State.resetWith testConfiguration

end Sys2Proof.Machine
end

