-- ==== Sys2Proof/Machine/Operands.lean ====
section
/-!
DEFINITION. The operand functions of 00_scope.md section 5: the wrap-safe signed difference and the address-to-mask map.
-/

namespace Sys2Proof.Machine

/-- `sdiff32(a, b)`: the difference modulo 2^32, read as a two's-complement integer (00_scope.md R11). -/
def sdiff32 (a b : U32) : Int := (a - b).toInt

/-- `bit(a)`: the mask of a connector address, 0 outside 1..31 (00_scope.md R12). -/
def addrBit (a : Byte) : U32 := if AddrOk a then 1#32 <<< a.toNat else 0#32

end Sys2Proof.Machine
end

