-- ==== Sys2Proof/Machine/Flags.lean ====
section
/-!
DEFINITION. The block stores its 1-bit flags in `State` and has no condition codes (10_state.md R32). These are the conditions that
R32 derives when a rule needs them.
-/

namespace Sys2Proof.Machine

/-- The index after `i` in a ring of `n` elements. -/
def nextIndex (i n : Nat) : Nat := (i + 1) % n

/-- Queue empty (43_tx_queues.md R94). -/
def Queue.isEmpty (q : Queue) : Bool := q.head = q.tail

/-- Queue full, for a queue of `n` slots (R94). -/
def Queue.isFull (q : Queue) (n : Nat) : Bool := nextIndex q.head n = q.tail

/-- `any_active(J)`; for the slave-link table, "streaming active" (44_led_jobs.md R102). -/
def JobTable.anyActive (j : JobTable) : Bool := j.slots.any (fun k => k.active)

/-- The slot is due (R103). -/
def Job.isDue (k : Job) (tick : U32) : Bool := k.active && decide (0 ≤ sdiff32 tick k.next)

/-- The slot holds the active job `(t, i)` (R104). -/
def Job.isActiveJob (t i : Byte) (k : Job) : Bool := k.active && decide (k.target = t) && decide (k.ind = i)

/-- The idle condition (41_tick_scheduler.md R70). -/
def State.isIdle (s : State) : Bool := decide ((s.params.idleTicks : Int) ≤ sdiff32 s.tick s.lastActivity)

/-- The status frame does not fit the slot (45_status_frame.md R116). -/
def State.statusOversize (s : State) : Bool := decide (s.params.statusBufCap < s.params.statusTotal)

end Sys2Proof.Machine
end

