-- ==== Sys2Proof/Machine/Ops.lean ====
section
/-!
DEFINITION. The shared operations: outcomes in sequence, `MemRead` and `MemWrite` (20_memory.md R39), `Out` and `Resp`
(00_scope.md section 5), the ring buffers (43_tx_queues.md), reset (70 R154) and the refusal of a port word (30_encoding.md R52).

The block takes no exception and returns from none (60_exceptions.md R139, R144, R145), so there is no such operation.
-/

namespace Sys2Proof.Machine

/-- What an operation answers: a result, a fault or a refusal. -/
abbrev Res (α : Type) := Host.Outcome α Fault Refusal

/-- Run `k` on the result, if there is one. -/
def Res.andThen {α β : Type} (r : Res α) (k : α → Res β) : Res β :=
  match r with
  | .next a => k a
  | .fault f => .fault f
  | .refused x => .refused x

/-! ## Internal arrays (20_memory.md R38, R39) -/

/-- `MemRead(A, i)`; an index out of range faults. -/
def memRead {α : Type} (n : ArrayName) (arr : List α) (i : Nat) : Res α :=
  match arr[i]? with
  | some v => .next v
  | none => .fault (.indexOutOfRange n i)

/-- `MemWrite(A, i, v)`; an index out of range faults. -/
def memWrite {α : Type} (n : ArrayName) (arr : List α) (i : Nat) (v : α) : Res (List α) :=
  if i < arr.length then .next (arr.set i v) else .fault (.indexOutOfRange n i)

/-- `[MemRead(A, 0), ..., MemRead(A, k - 1)]`. -/
def memReadFirst {α : Type} (n : ArrayName) (arr : List α) (k : Nat) : Res (List α) :=
  if k ≤ arr.length then .next (arr.take k) else .fault (.indexOutOfRange n arr.length)

/-- `for i in 0 .. |vs|-1: MemWrite(A, i, vs[i])`. -/
def memWriteFirst {α : Type} (n : ArrayName) (arr vs : List α) : Res (List α) :=
  if vs.length ≤ arr.length then .next (vs ++ arr.drop vs.length) else .fault (.indexOutOfRange n arr.length)

/-! ## Output (00_scope.md R10, 30_encoding.md R51) -/

/-- `Out(e)`. -/
def emit (e : Event) (s : State) : State := { s with obs := s.obs ++ [.event e] }

/-- `Resp(r)`, to the agent whose transaction is executed. -/
def respond (r : Response) (s : State) : State := { s with obs := s.obs ++ [.resp s.issuer r] }

/-- The block accepts a transaction of agent `a`, the first of the inputs, of which `rest` remain (00_scope.md R5, R6). -/
def accept (a : Agent) (rest : List PortInput) (s : State) : State := { s with port := rest, issuer := a }

/-- `refuse(ILLEGAL_PORT_WORD)`: no state changes, no event, the response is `ILLEGAL` (30_encoding.md R52). -/
def refusePortWord (s : State) : State := respond .illegal s

/-- `rst`: every piece of state of the block gets its reset value; no event, no response (70_reset_and_hazards.md R154). The
configuration, the inputs still presented and the observation of the run are not state of the block (log 6). -/
def resetBlock (s : State) : State :=
  { State.resetWith s.params with port := s.port, issuer := s.issuer, obs := s.obs }

/-! ## Transmit ring buffers (43_tx_queues.md) -/

/-- The usable capacity of a queue of `n` slots (R94). -/
def usableCapacity (n : Nat) : Nat := n - 1

/-- `Push(Q, f)` on a queue of `n` slots: the queue after it, and whether the frame was stored (R95). -/
def push (name : ArrayName) (n : Nat) (q : Queue) (f : Bytes) : Res (Queue × Bool) :=
  if q.isFull n then .next ({ q with drops := q.drops + 1#32 }, false)
  else (memWrite name q.slot q.head f).andThen fun slot =>
    .next ({ q with slot := slot, head := nextIndex q.head n }, true)

/-- `Pop(Q)` on a queue of `n` slots: the queue after it, and the frame unless the queue was empty (R96). -/
def pop (name : ArrayName) (n : Nat) (q : Queue) : Res (Queue × Option Bytes) :=
  if q.isEmpty then .next (q, none)
  else (memRead name q.slot q.tail).andThen fun f => .next ({ q with tail := nextIndex q.tail n }, some f)

/-- Push a frame onto `slq`; the result is not used (41_tick_scheduler.md R67). -/
def pushSl (f : Bytes) (s : State) : Res State :=
  (push .slqSlot s.params.slSlots s.slq f).andThen fun r => .next { s with slq := r.1 }

/-- Push a frame onto `pxq`; the result is not used. -/
def pushPx (f : Bytes) (s : State) : Res State :=
  (push .pxqSlot s.params.pxSlots s.pxq f).andThen fun r => .next { s with pxq := r.1 }

/-- The response to a pop (R97, R98). -/
def popResponse : Option Bytes → Response
  | none => .empty
  | some f => .frame f

end Sys2Proof.Machine
end

