-- ==== Sys2Proof/Machine/Jobs.lean ====
section
/-!
DEFINITION. The LED job tables and their rate limiters (44_led_jobs.md).
-/

namespace Sys2Proof.Machine

/-- Deactivate every slot that `hit` selects; no other field and not the cursor change (R105 to R107). -/
def JobTable.deactivate (j : JobTable) (hit : Job → Bool) : JobTable :=
  { j with slots := j.slots.map (fun k => if hit k then { k with active := false } else k) }

/-- `JobStart(J, t, i)` at this `tick` (R104): nothing where the job is active already or no slot is free; else the inactive slot of
least index is filled. -/
def JobTable.start (j : JobTable) (t i : Byte) (tick : U32) : JobTable :=
  if j.slots.any (Job.isActiveJob t i) then j
  else match j.slots.findIdx? (fun k => !k.active) with
    | some k => { j with slots := j.slots.set k { target := t, ind := i, next := tick, active := true } }
    | none => j

/-- `JobStopInd(J, i)` (R105). -/
def JobTable.stopInd (j : JobTable) (i : Byte) : JobTable := j.deactivate (fun k => decide (k.ind = i))

/-- `JobStopAll(J)` (R106). -/
def JobTable.stopAll (j : JobTable) : JobTable := j.deactivate (fun _ => true)

/-- `JobRemoveExcept(J, t, keep)` (R107). -/
def JobTable.removeExcept (j : JobTable) (t keep : Byte) : JobTable :=
  j.deactivate (fun k => decide (k.target = t) && decide (k.ind ≠ keep))

/-- The scan of `EmitOne` over a table of `n` slots: `fuel` more slots, from offset `off` after the cursor. It answers the index of the
first due slot, if there is one (R108). -/
def scanDue (name : ArrayName) (n : Nat) (j : JobTable) (tick : U32) : Nat → Nat → Res (Option Nat)
  | 0, _ => .next none
  | fuel + 1, off =>
    (memRead name j.slots ((j.cur + off) % n)).andThen fun job =>
      if job.isDue tick then .next (some ((j.cur + off) % n)) else scanDue name n j tick fuel (off + 1)

/-- What `EmitOne` answers: the table and the queue after it, and whether a job was emitted. -/
structure Emission where
  table : JobTable
  queue : Queue
  emitted : Bool
  deriving DecidableEq, Repr

/-- Emit slot `k` of a table of `n` slots onto a queue of `m` slots (R108): the push, whose result is not used, the slot's next allowed
tick and the cursor. -/
def emitSlot (jname qname : ArrayName) (n m : Nat) (frame : Byte → Byte → Bytes) (tick : U32) (j : JobTable) (q : Queue) (k : Nat) :
    Res Emission :=
  (memRead jname j.slots k).andThen fun job =>
    (push qname m q (frame job.target job.ind)).andThen fun r =>
      (memWrite jname j.slots k { job with next := tick + MIN_PERIOD_TICKS }).andThen fun slots =>
        .next { table := { slots := slots, cur := nextIndex k n }, queue := r.1, emitted := true }

/-- `EmitOne(J, Q, F)` on a table of `n` slots and a queue of `m` slots (R108). -/
def emitOne (jname qname : ArrayName) (n m : Nat) (frame : Byte → Byte → Bytes) (tick : U32) (j : JobTable) (q : Queue) : Res Emission :=
  if j.anyActive then
    (scanDue jname n j tick n 0).andThen fun found =>
      match found with
      | some k => emitSlot jname qname n m frame tick j q k
      | none => .next { table := j, queue := q, emitted := false }
  else .next { table := j, queue := q, emitted := false }

/-- `EmitOne(slj, slq, SL_LED_FRAME)`. -/
def emitSl (s : State) : Res Emission :=
  emitOne .sljSlot .slqSlot s.params.slJobs s.params.slSlots s.params.slLed s.tick s.slj s.slq

/-- `EmitOne(pxj, pxq, PX_LED_FRAME)`. -/
def emitPx (s : State) : Res Emission :=
  emitOne .pxjSlot .pxqSlot s.params.pxJobs s.params.pxSlots s.params.pxLed s.tick s.pxj s.pxq

/-- Apply a job operation to the table `J(tbl)`: `slj` for 0, `pxj` for 1; any other selector is ill-formed and refused
(46_host_commands.md section 2). -/
def onTable (tbl : Byte) (op : JobTable → JobTable) (s : State) : Res State :=
  if tbl = 0#8 then .next { s with slj := op s.slj }
  else if tbl = 1#8 then .next { s with pxj := op s.pxj }
  else .refused (.badTableSelector tbl)

end Sys2Proof.Machine
end

