-- ==== Sys2Proof/Machine/Effects.lean ====
section
/-!
DEFINITION. The effect operations (46_host_commands.md R128 to R138) and the application of a list of effect records (R127).
-/

namespace Sys2Proof.Machine

/-- The addresses of the active entries among the first `n` complete (address, status) pairs, in payload order (R60, R128). -/
def activeEntries : Nat → Bytes → Bytes
  | n + 1, a :: s :: rest => if s = MAP_ACTIVE then a :: activeEntries n rest else activeEntries n rest
  | _, _ => []

/-- The addresses an upload's payload stores: at most `MAX_CFG` of its active entries (R128). -/
def uploadedMap (max n : Nat) (pairs : Bytes) : Bytes := (activeEntries n pairs).take max

/-- `EFF_MAP_UPLOAD(payload)` (R128). -/
def execEffMapUpload (payload : Bytes) (s : State) : Res State :=
  match payload with
  | [] => .next s
  | n :: pairs =>
    (memWriteFirst .cfg s.cfg (uploadedMap s.params.maxCfg n.toNat pairs)).andThen fun cfg =>
      .next { s with cfg := cfg, cfgCount := (uploadedMap s.params.maxCfg n.toNat pairs).length }

/-- `EFF_JOB_START(tbl, target, ind)` (R129). -/
def execEffJobStart (tbl target ind : Byte) (s : State) : Res State := onTable tbl (fun j => j.start target ind s.tick) s

/-- `EFF_JOB_STOP_IND(tbl, ind)` (R130). -/
def execEffJobStopInd (tbl ind : Byte) (s : State) : Res State := onTable tbl (fun j => j.stopInd ind) s

/-- `EFF_JOB_STOP_ALL(tbl)` (R131). -/
def execEffJobStopAll (tbl : Byte) (s : State) : Res State := onTable tbl JobTable.stopAll s

/-- `EFF_JOB_REMOVE_EXCEPT(tbl, target, keep)` (R132). -/
def execEffJobRemoveExcept (tbl target keep : Byte) (s : State) : Res State := onTable tbl (fun j => j.removeExcept target keep) s

/-- `EFF_BCAST_REQ(tbl)` (R133). -/
def execEffBcastReq (tbl : Byte) (s : State) : Res State :=
  if tbl = 0#8 then .next { s with bcastPendSl := true }
  else if tbl = 1#8 then .next { s with bcastPendPx := true }
  else .refused (.badTableSelector tbl)

/-- `EFF_ONESHOT_SET(all, mask)` (R134). -/
def execEffOneshotSet (all : Bool) (mask : U32) (s : State) : Res State := .next { s with oneshotAll := all, oneshotMask := mask }

/-- `EFF_FORCE_SET(mask)` (R135). -/
def execEffForceSet (mask : U32) (s : State) : Res State := .next { s with forceTrig := mask }

/-- `EFF_RELAY_SET(value)` (R136). -/
def execEffRelaySet (value : Bytes) (s : State) : Res State := .next (emit (.relaySet value) s)

/-- `EFF_BTN_RESET` (R137). -/
def execEffBtnReset (s : State) : Res State := .next { s with statusExt := 0#8 }

/-- `EFF_PX_MASK(value)` (R138). -/
def execEffPxMask (value : Bytes) (s : State) : Res State := .next (emit (.pxSetMask value) s)

/-- A reserved effect code: the model refuses the configuration (30_encoding.md R63). -/
def execReservedEffect (code : Byte) (_s : State) : Res State := .refused (.reservedEffectCode code)

/-- `Apply(e)`: the effect operation of the record's code (30_encoding.md R63, 42_parsers.md R89). -/
def applyEffect (e : EffectRec) (s : State) : Res State :=
  match e.code.toNat with
  | 1 => execEffMapUpload e.bytes s
  | 2 => execEffJobStart e.tbl e.target e.ind s
  | 3 => execEffJobStopInd e.tbl e.ind s
  | 4 => execEffJobStopAll e.tbl s
  | 5 => execEffJobRemoveExcept e.tbl e.target e.ind s
  | 6 => execEffBcastReq e.tbl s
  | 7 => execEffOneshotSet e.all e.mask s
  | 8 => execEffForceSet e.mask s
  | 9 => execEffRelaySet e.bytes s
  | 10 => execEffBtnReset s
  | 11 => execEffPxMask e.bytes s
  | _ => execReservedEffect e.code s

/-- The records of a list, applied in order; each sees the state the one before it left (R127). -/
def applyEffects : List EffectRec → State → Res State
  | [], s => .next s
  | e :: es, s => (applyEffect e s).andThen (applyEffects es)

end Sys2Proof.Machine
end

