-- ==== Sys2Proof/Machine/Status.lean ====
section
/-!
DEFINITION. The status-frame combiner and the transactions on the status slot (45_status_frame.md).
-/

namespace Sys2Proof.Machine

/-- `Derived(al, tr)` (R114). -/
def derivedStatus (p : Params) (al tr : Bool) : Byte :=
  if al then (if tr then p.stTrig else p.stAlive) else p.stIdle

/-- `A`, the alive mask of a build (R112). -/
def State.aliveView (s : State) : U32 := s.roundAlive ||| s.alive

/-- `R`, the triggered mask of a build (R112). -/
def State.trigView (s : State) : U32 := s.roundTrig ||| s.trig

/-- A configured connector's status byte and the force mask after it, for the connector's mask `m` and the force mask `force` as the
entries before it left it: one-shot, then force-while-triggered, then derived (R113). -/
def resolveMask (s : State) (m force : U32) : Byte × U32 :=
  let al := decide (s.aliveView &&& m ≠ 0#32)
  let tr := decide (s.trigView &&& m ≠ 0#32)
  if s.oneshotAll ∨ s.oneshotMask &&& m ≠ 0#32 then (ST_ALERT, force)
  else if force &&& m ≠ 0#32 then
    if tr then (ST_ALERT, force) else (derivedStatus s.params al tr, force &&& ~~~m)
  else (derivedStatus s.params al tr, force)

/-- `Resolve(j, A, R)`: status byte `j` and the force mask after it (R113). -/
def resolve (s : State) (j : Nat) (force : U32) : Res (Byte × U32) :=
  if s.cfgCount ≤ j then .next (s.params.stIdle, force)
  else (memRead .cfg s.cfg j).andThen fun a => .next (resolveMask s (addrBit a) force)

/-- Status bytes `j`, `j + 1`, ... (as many as the first argument), in order, and the force mask after them (R111). -/
def resolveFrom (s : State) : Nat → Nat → U32 → Res (Bytes × U32)
  | 0, _, force => .next ([], force)
  | n + 1, j, force =>
    (resolve s j force).andThen fun r =>
      (resolveFrom s n (j + 1) r.2).andThen fun t => .next (r.1 :: t.1, t.2)

/-- The status frame for a status array (30_encoding.md R59, 45_status_frame.md R115). -/
def statusFrame (p : Params) (ext : Byte) (st : Bytes) : Bytes :=
  [START, BitVec.ofNat 8 p.statusLen, p.groupApp, p.devAddr, p.scStatusReply, ext] ++ st ++ p.trailer ++ [END]

/-- `Build()` (R111): nothing at all where the frame does not fit the slot (R116); else the frame overwrites the slot (R117), the
one-shot mask is consumed (R118) and the force bits that `Resolve` cleared stay cleared. -/
def build (s : State) : Res State :=
  if s.statusOversize then .next s
  else (resolveFrom s s.params.maxCfg 0 s.forceTrig).andThen fun r =>
    (memWriteFirst .stBuf s.stBuf (statusFrame s.params s.statusExt r.1)).andThen fun buf =>
      .next { s with
        stBuf := buf
        stLen := (statusFrame s.params s.statusExt r.1).length
        forceTrig := r.2
        oneshotAll := false
        oneshotMask := 0#32 }

/-- `ST_PEEK` (R120). -/
def execStPeek (s : State) : Res State :=
  if s.stLen = 0 then .next (respond .empty s)
  else (memReadFirst .stBuf s.stBuf s.stLen).andThen fun f => .next (respond (.frame f) s)

/-- `ST_SENT` (R121). -/
def execStSent (s : State) : Res State := .next (respond .ack { s with stLen := 0 })

/-- `BTN bits` (R122). -/
def execBtn (bits : Byte) (s : State) : Res State :=
  (build { s with statusExt := s.statusExt ||| bits }).andThen fun t => .next (respond .ack t)

/-- The status frame the block makes: the build into the status slot (30_encoding.md R59, 45_status_frame.md R111; log 12). -/
def execStatusFrameSent (s : State) : Res State := build s

end Sys2Proof.Machine
end

