-- ==== Sys2Proof/Machine/HostFrames.lean ====
section
/-!
DEFINITION. What a completed host frame does (42_parsers.md R89, 46_host_commands.md R123 to R127), one meaning for each host-frame row
of the opcode table. The parser's own step is Machine/Port.lean's.
-/

namespace Sys2Proof.Machine

/-- `last_activity <- tick` (42_parsers.md R89). -/
def noteActivity (s : State) : State := { s with lastActivity := s.tick }

/-- A host frame with a service code: `last_activity`, then, where the code is in dom(DISPATCH), its effects in order and one build
(R89, R126, R127). -/
def hostCommand (sc g a : Byte) (payload : Bytes) (s : State) : Res State :=
  match s.params.dispatch sc g a payload with
  | none => .next (noteActivity s)
  | some es => (applyEffects es (noteActivity s)).andThen build

/-- `SC_POLL` (R124): no effect; the status rebuild only. -/
def execScPoll (g a : Byte) (p : Bytes) (s : State) : Res State := hostCommand s.params.scPoll g a p s

/-- `SC_LED_CTRL` (R125). -/
def execScLedCtrl (g a : Byte) (p : Bytes) (s : State) : Res State := hostCommand s.params.scLedCtrl g a p s

/-- `SC_ONESHOT_LED_RESET` (R125). -/
def execScOneshotLedReset (g a : Byte) (p : Bytes) (s : State) : Res State := hostCommand s.params.scOneshotLedReset g a p s

/-- `SC_MAP_UPLOAD` (R124). -/
def execScMapUpload (g a : Byte) (p : Bytes) (s : State) : Res State := hostCommand s.params.scMapUpload g a p s

/-- `SC_LED_RESET` (R125). -/
def execScLedReset (g a : Byte) (p : Bytes) (s : State) : Res State := hostCommand s.params.scLedReset g a p s

/-- `SC_RELAY_SET` (R125). -/
def execScRelaySet (g a : Byte) (p : Bytes) (s : State) : Res State := hostCommand s.params.scRelaySet g a p s

/-- `SC_BTN_RESET` (R125). -/
def execScBtnReset (g a : Byte) (p : Bytes) (s : State) : Res State := hostCommand s.params.scBtnReset g a p s

/-- `SC_PX_MASK` (R125). -/
def execScPxMask (g a : Byte) (p : Bytes) (s : State) : Res State := hostCommand s.params.scPxMask g a p s

/-- `SC_STATUS_REPLY`, received (R124, R126): unrecognised. -/
def execScStatusReplyReceived (g a : Byte) (p : Bytes) (s : State) : Res State := hostCommand s.params.scStatusReply g a p s

/-- The unrecognised arm (R126): a frame of fewer than three bytes, or with a code outside dom(DISPATCH), changes `last_activity` only. -/
def execHostUnrecognised (_content : Bytes) (s : State) : Res State := .next (noteActivity s)

/-- `HostFrame(f)` (42_parsers.md R89): the frame's row, or a further code of dom(DISPATCH), which has no row (log 20). -/
def hostFrame (f : Bytes) (s : State) : Res State :=
  match f with
  | g :: a :: sc :: payload =>
    match s.params.hostCode sc with
    | .poll => execScPoll g a payload s
    | .ledCtrl => execScLedCtrl g a payload s
    | .oneshotLedReset => execScOneshotLedReset g a payload s
    | .mapUpload => execScMapUpload g a payload s
    | .ledReset => execScLedReset g a payload s
    | .relaySet => execScRelaySet g a payload s
    | .btnReset => execScBtnReset g a payload s
    | .pxMask => execScPxMask g a payload s
    | .statusReply => execScStatusReplyReceived g a payload s
    | .further => hostCommand sc g a payload s
    | .unknown => execHostUnrecognised f s
  | content => execHostUnrecognised content s

end Sys2Proof.Machine
end

