-- ==== Sys2Proof/Machine/Parsers.lean ====
section
/-!
DEFINITION. The byte parsers' shared state machine (42_parsers.md R80 to R86).
-/

namespace Sys2Proof.Machine

/-- The 2-bit encoding of a parser state (R80). -/
def ParserState.code : ParserState → BitVec 2
  | .waitStart => 0b00
  | .waitLen => 0b01
  | .collect => 0b10
  | .waitEnd => 0b11

/-- What a byte makes of a parser: the parser after it, and the content of the frame it completes, if it completes one. -/
structure ParseStep where
  parser : Parser
  complete : Option Bytes := none
  deriving DecidableEq, Repr

/-- `WAIT_START` (R81). -/
def parseStart (p : Parser) (b : Byte) : Parser := if b = START then { p with state := .waitLen } else p

/-- `WAIT_LEN` (R82). -/
def parseLen (cap : Nat) (p : Parser) (b : Byte) : Parser :=
  if b = 0#8 ∨ cap < b.toNat then { p with state := .waitStart } else { p with len := b, idx := 0#8, state := .collect }

/-- `COLLECT` (R83). -/
def parseContent (name : ArrayName) (p : Parser) (b : Byte) : Res Parser :=
  (memWrite name p.buf p.idx.toNat b).andThen fun buf =>
    .next { p with buf := buf, idx := p.idx + 1#8, state := if p.idx + 1#8 = p.len then .waitEnd else .collect }

/-- `WAIT_END` (R84, R85). -/
def parseEnd (name : ArrayName) (p : Parser) (b : Byte) : Res ParseStep :=
  if b = END then
    (memReadFirst name p.buf p.len.toNat).andThen fun f => .next { parser := { p with state := .waitStart }, complete := some f }
  else .next { parser := { p with state := .waitStart } }

/-- `Step(P, CAP, b)` (R80). -/
def parseByte (name : ArrayName) (cap : Nat) (p : Parser) (b : Byte) : Res ParseStep :=
  match p.state with
  | .waitStart => .next { parser := parseStart p b }
  | .waitLen => .next { parser := parseLen cap p b }
  | .collect => (parseContent name p b).andThen fun q => .next { parser := q }
  | .waitEnd => parseEnd name p b

end Sys2Proof.Machine
end

