-- ==== Sys2Proof/Machine/SlaveFrames.lean ====
section
/-!
DEFINITION. What a completed slave frame does (42_parsers.md R90 to R93), one meaning for each slave-frame row of the opcode table.
-/

namespace Sys2Proof.Machine

/-- A triggered mask after a reply of the connector with mask `m` (R92, R93). -/
def trigUpdate (p : Params) (state : Byte) (m trig : U32) : U32 := if state = p.trigSentinel then trig ||| m else trig &&& ~~~m

/-- The update of the round accumulators (R92). -/
def replyRound (m : U32) (state : Byte) (s : State) : State :=
  { s with roundAlive := s.roundAlive ||| m, roundTrig := trigUpdate s.params state m s.roundTrig }

/-- The mirror into the committed view while streaming is active (R93). -/
def replyMirror (m : U32) (state : Byte) (s : State) : State :=
  if s.slj.anyActive then { s with alive := s.alive ||| m, trig := trigUpdate s.params state m s.trig } else s

/-- A status reply, its address and state (R91 to R93). -/
def statusReply (addr state : Byte) (s : State) : State :=
  if addrBit addr = 0#32 ∨ state = 0#8 then s else replyMirror (addrBit addr) state (replyRound (addrBit addr) state s)

/-- A status reply that updates the masks (R92, R93). -/
def execSlaveStatusReply (addr state : Byte) (s : State) : Res State := .next (statusReply addr state s)

/-- A completed slave frame that is no status reply is ignored (R90). -/
def execSlaveIgnoredShape (_content : Bytes) (s : State) : Res State := .next s

/-- A status reply of an address outside 1..31 or with a zero state is ignored (R91). -/
def execSlaveIgnoredValue (_addr _state : Byte) (s : State) : Res State := .next s

/-- `SlaveFrame(f)` (R90). -/
def slaveFrame (f : Bytes) (s : State) : Res State :=
  match f with
  | [sc, addr, state] =>
    if sc ≠ s.params.scSlaveStatus then execSlaveIgnoredShape f s
    else if ReplyCounts addr state then execSlaveStatusReply addr state s
    else execSlaveIgnoredValue addr state s
  | content => execSlaveIgnoredShape content s

end Sys2Proof.Machine
end

