-- ==== Sys2Proof/Machine/Port.lean ====
section
/-!
DEFINITION. The transactions of the two serial channels: `HRX b` and `SRX b` (42_parsers.md R87, R88).
-/

namespace Sys2Proof.Machine

/-- Hand a completed content on, where there is one. -/
def handOn (take : Bytes → State → Res State) (complete : Option Bytes) (s : State) : Res State :=
  match complete with
  | none => .next s
  | some f => take f s

/-- `HRX b` (R87). -/
def execHrx (b : Byte) (s : State) : Res State :=
  (parseByte .hpBuf s.params.hostRxCap s.hp b).andThen fun r =>
    (handOn hostFrame r.complete { s with hp := r.parser }).andThen fun t => .next (respond .ack t)

/-- `SRX b` (R88). -/
def execSrx (b : Byte) (s : State) : Res State :=
  (parseByte .spBuf s.params.slaveRxCap s.sp b).andThen fun r =>
    (handOn slaveFrame r.complete { s with sp := r.parser }).andThen fun t => .next (respond .ack t)

end Sys2Proof.Machine
end

