-- ==== Sys2Proof/Machine/Queues.lean ====
section
/-!
DEFINITION. The consumer's transactions on the transmit queues (43_tx_queues.md R97 to R100) and the slave-link frames that carry
`SC_SLAVE` (30_encoding.md R57).
-/

namespace Sys2Proof.Machine

/-- `SLQ_POP` (R97). -/
def execSlqPop (s : State) : Res State :=
  (pop .slqSlot s.params.slSlots s.slq).andThen fun r => .next (respond (popResponse r.2) { s with slq := r.1 })

/-- `PXQ_POP` (R98). -/
def execPxqPop (s : State) : Res State :=
  (pop .pxqSlot s.params.pxSlots s.pxq).andThen fun r => .next (respond (popResponse r.2) { s with pxq := r.1 })

/-- `SLQ_DROPS` (R99). -/
def execSlqDrops (s : State) : Res State := .next (respond (.value s.slq.drops) s)

/-- `PXQ_DROPS` (R100). -/
def execPxqDrops (s : State) : Res State := .next (respond (.value s.pxq.drops) s)

/-- `SL_LED_FRAME` or `SL_OFF_FRAME` is made and pushed onto `slq`, as `EmitOne` and the broadcast service of `TICK` do
(30_encoding.md R57, 41_tick_scheduler.md R69, 44_led_jobs.md R108; log 11). -/
def execSlaveLinkFrameSent (frame : SlaveLinkFrame) (s : State) : Res State := pushSl (s.params.slaveLink frame) s

end Sys2Proof.Machine
end

