-- ==== Sys2Proof/Machine/Reserved.lean ====
section
/-!
DEFINITION. The port words with a reserved `OP` (30_encoding.md R52): refused with the response `ILLEGAL`, whatever their other bits.
-/

namespace Sys2Proof.Machine

/-- `OP = 0x0` (R52). -/
def execReservedOp0 (_low : BitVec 12) (s : State) : Res State := .next (refusePortWord s)

/-- `OP = 0xB` (R52). -/
def execReservedOpB (_low : BitVec 12) (s : State) : Res State := .next (refusePortWord s)

/-- `OP = 0xC` (R52). -/
def execReservedOpC (_low : BitVec 12) (s : State) : Res State := .next (refusePortWord s)

/-- `OP = 0xD` (R52). -/
def execReservedOpD (_low : BitVec 12) (s : State) : Res State := .next (refusePortWord s)

/-- `OP = 0xE` (R52). -/
def execReservedOpE (_low : BitVec 12) (s : State) : Res State := .next (refusePortWord s)

/-- `OP = 0xF` (R52). -/
def execReservedOpF (_low : BitVec 12) (s : State) : Res State := .next (refusePortWord s)

end Sys2Proof.Machine
end

