-- ==== Sys2Proof/Machine/Tick.lean ====
section
/-!
DEFINITION. The transaction `TICK` and its steps (41_tick_scheduler.md R67 to R76).
-/

namespace Sys2Proof.Machine

/-- Step 1: the tick counter is incremented, wrapping (R68). -/
def tickAdvance (s : State) : State := { s with tick := s.tick + 1#32 }

/-- The slave-link half of step 2 (R69). -/
def serveSl (s : State) : Res State :=
  if s.bcastPendSl then (pushSl s.params.slOffFrame s).andThen fun t => .next { t with bcastPendSl := false } else .next s

/-- The pixel-strip half of step 2 (R69). -/
def servePx (s : State) : Res State :=
  if s.bcastPendPx then (pushPx s.params.pxOffFrame s).andThen fun t => .next { t with bcastPendPx := false } else .next s

/-- Step 2: the pending broadcasts are served (R69). -/
def serveBroadcasts (s : State) : Res State := (serveSl s).andThen servePx

/-- The once-per-episode clear of the pixel buffer (R71, R72). -/
def idleClear (s : State) : State := if s.idleCleared then s else { emit .pxClearAll s with idleCleared := true }

/-- Step 3 on an idle tick (R71). -/
def idleTick (s : State) : State := emit .pxRequestFlush (idleClear { s with bcastPendSl := true, bcastPendPx := true })

/-- `Commit()` (R75). -/
def commit (s : State) : State :=
  { s with alive := s.roundAlive, trig := s.roundTrig &&& s.roundAlive, roundAlive := 0#32, roundTrig := 0#32 }

/-- The clamp of the poll cursor (R74). -/
def clampCursor (s : State) : State := if s.cfgCount ≤ s.pollCur then { s with pollCur := 0 } else s

/-- The round commit, at cursor zero only (R75). -/
def commitAtZero (s : State) : State := if s.pollCur = 0 then commit s else s

/-- Branch c of step 4 with a connector map that is not empty (R73, R74, R75): the clamp, the commit, the poll frame, the cursor. -/
def pollOne (s : State) : Res State :=
  (memRead .cfg s.cfg (commitAtZero (clampCursor s)).pollCur).andThen fun a =>
    (pushSl (s.params.slPoll a) (commitAtZero (clampCursor s))).andThen fun t =>
      .next { t with pollCur := (t.pollCur + 1) % t.cfgCount }

/-- Step 4 on a tick that is not idle: one of the branches a, b, c (R73). -/
def slaveLinkTurn (s : State) : Res State :=
  (emitSl s).andThen fun e =>
    if e.emitted then .next (emit .pxRequestFlush { s with slj := e.table, slq := e.queue, ledActive := true })
    else if s.ledActive then .next { s with ledActive := false, pollCur := 0 }
    else if 0 < s.cfgCount then pollOne s
    else .next s

/-- Step 5: one pixel-strip emission; its result is not used (R76). -/
def pixelTurn (s : State) : Res State :=
  (emitPx s).andThen fun e => .next { s with pxj := e.table, pxq := e.queue }

/-- Steps 4 and 5 on a tick that is not idle, with the flush of step 4d between them (R73, R76). -/
def activeTick (s : State) : Res State :=
  (slaveLinkTurn { s with idleCleared := false }).andThen fun t => pixelTurn (emit .pxRequestFlush t)

/-- `TICK` (R67). -/
def execTick (s : State) : Res State :=
  (serveBroadcasts (tickAdvance s)).andThen fun t =>
    if t.isIdle then .next (respond .ack (idleTick t))
    else (activeTick t).andThen fun u => .next (respond .ack u)

end Sys2Proof.Machine
end

