-- ==== Sys2Proof/Machine/Dispatch.lean ====
section
/-!
DEFINITION. The meaning of each instruction: one arm for each constructor of `Instr`, each a direct call of its meaning.
-/

namespace Sys2Proof.Machine

def exec (i : Instr) (s : State) : Host.Outcome State Fault Refusal :=
  match i with
  | .tick => Sys2Proof.Machine.execTick s
  | .hrx b => Sys2Proof.Machine.execHrx b s
  | .srx b => Sys2Proof.Machine.execSrx b s
  | .btn bits => Sys2Proof.Machine.execBtn bits s
  | .slqPop => Sys2Proof.Machine.execSlqPop s
  | .pxqPop => Sys2Proof.Machine.execPxqPop s
  | .stPeek => Sys2Proof.Machine.execStPeek s
  | .stSent => Sys2Proof.Machine.execStSent s
  | .slqDrops => Sys2Proof.Machine.execSlqDrops s
  | .pxqDrops => Sys2Proof.Machine.execPxqDrops s
  | .reservedOp0 low => Sys2Proof.Machine.execReservedOp0 low s
  | .reservedOpB low => Sys2Proof.Machine.execReservedOpB low s
  | .reservedOpC low => Sys2Proof.Machine.execReservedOpC low s
  | .reservedOpD low => Sys2Proof.Machine.execReservedOpD low s
  | .reservedOpE low => Sys2Proof.Machine.execReservedOpE low s
  | .reservedOpF low => Sys2Proof.Machine.execReservedOpF low s
  | .scPoll g a p => Sys2Proof.Machine.execScPoll g a p s
  | .scLedCtrl g a p => Sys2Proof.Machine.execScLedCtrl g a p s
  | .scOneshotLedReset g a p => Sys2Proof.Machine.execScOneshotLedReset g a p s
  | .scMapUpload g a p => Sys2Proof.Machine.execScMapUpload g a p s
  | .scLedReset g a p => Sys2Proof.Machine.execScLedReset g a p s
  | .scRelaySet g a p => Sys2Proof.Machine.execScRelaySet g a p s
  | .scBtnReset g a p => Sys2Proof.Machine.execScBtnReset g a p s
  | .scPxMask g a p => Sys2Proof.Machine.execScPxMask g a p s
  | .scStatusReplyReceived g a p => Sys2Proof.Machine.execScStatusReplyReceived g a p s
  | .hostUnrecognised content => Sys2Proof.Machine.execHostUnrecognised content s
  | .slaveStatusReply addr state => Sys2Proof.Machine.execSlaveStatusReply addr state s
  | .slaveIgnoredShape content => Sys2Proof.Machine.execSlaveIgnoredShape content s
  | .slaveIgnoredValue addr state => Sys2Proof.Machine.execSlaveIgnoredValue addr state s
  | .slaveLinkFrameSent frame => Sys2Proof.Machine.execSlaveLinkFrameSent frame s
  | .statusFrameSent => Sys2Proof.Machine.execStatusFrameSent s
  | .effMapUpload payload => Sys2Proof.Machine.execEffMapUpload payload s
  | .effJobStart tbl target ind => Sys2Proof.Machine.execEffJobStart tbl target ind s
  | .effJobStopInd tbl ind => Sys2Proof.Machine.execEffJobStopInd tbl ind s
  | .effJobStopAll tbl => Sys2Proof.Machine.execEffJobStopAll tbl s
  | .effJobRemoveExcept tbl target keep => Sys2Proof.Machine.execEffJobRemoveExcept tbl target keep s
  | .effBcastReq tbl => Sys2Proof.Machine.execEffBcastReq tbl s
  | .effOneshotSet all mask => Sys2Proof.Machine.execEffOneshotSet all mask s
  | .effForceSet mask => Sys2Proof.Machine.execEffForceSet mask s
  | .effRelaySet value => Sys2Proof.Machine.execEffRelaySet value s
  | .effBtnReset => Sys2Proof.Machine.execEffBtnReset s
  | .effPxMask value => Sys2Proof.Machine.execEffPxMask value s
  | .reservedEffect code => Sys2Proof.Machine.execReservedEffect code s

end Sys2Proof.Machine
end

