-- ==== Sys2Proof/Machine/Accept.lean ====
section
/-!
DEFINITION. Accepting one input (00_scope.md R4, R5; 30_encoding.md R52; 70 R154), and presenting an instruction of the opcode table
as the next input.
-/

namespace Sys2Proof.Machine

/-- A port word `w` of agent `a` is accepted, `rest` being the inputs after it: the instruction it stands for runs, or the word is
refused (30_encoding.md R52). -/
def acceptWord (a : Agent) (w : PortWord) (rest : List PortInput) (s : State) : Res State :=
  match decodePort a w with
  | .ok i => exec i (accept a rest s)
  | .error _ => .next (refusePortWord (accept a rest s))

/-- The next input is accepted; with none presented the block holds its state (60_exceptions.md R153, log 7). -/
def acceptInput (s : State) : Res State :=
  match s.port with
  | [] => .next s
  | .rst :: rest => .next (resetBlock { s with port := rest })
  | .word a w :: rest => acceptWord a w rest s

/-! ## Presenting an instruction (log 9, log 10) -/

/-- Agent `a` presents `w` as the next input. -/
def presentWord (a : Agent) (w : PortWord) (s : State) : State := { s with port := .word a w :: s.port }

/-- A service code that is none of the named ones. -/
def spareCode (p : Params) : Byte :=
  (((List.range 256).map (BitVec.ofNat 8)).find? (fun c => c ∉ p.scStatusReply :: p.namedCodes)).getD 0#8

/-- The configuration with a further service code whose list is one effect record of this code with zero fields. -/
def paramsWithEffect (p : Params) (sc code : Byte) : Params :=
  { p with
    furtherCodes := sc :: p.furtherCodes
    dispatchRows := { sc := sc, payload := some [], effects := [{ code := code }] } :: p.dispatchRows }

/-- An effect runs inside the `HRX` step that completes a host frame (46_host_commands.md R127). So the frame `0, 0, sc` stands
collected in the host parser, `DISPATCH` gives that code the effect alone, and `HostRx` presents END. -/
def presentEffect (code : Byte) (s : State) : State :=
  presentWord .hostRx (portWordOf 0x2#4 END)
    { s with
      params := paramsWithEffect s.params (spareCode s.params) code
      hp := { state := .waitEnd, len := 3#8, idx := 3#8, buf := [0#8, 0#8, spareCode s.params] ++ s.hp.buf.drop 3 } }

/-- A "broadcast off" is made inside the `TICK` that serves a pending broadcast (41_tick_scheduler.md R69). -/
def presentSlaveLinkOff (s : State) : State := presentWord .tickSrc (portWordOf 0x1#4 0#8) { s with bcastPendSl := true }

end Sys2Proof.Machine
end

