-- ==== Sys2Proof/Machine/Step.lean ====
section
/-!
DEFINITION. One step: the next input is accepted, in a well-formed configuration; any other configuration is refused
(00_scope.md R5, R8).
-/

namespace Sys2Proof.Machine

/-- One step of the block. -/
def step (s : State) : Host.Outcome State Fault Refusal :=
  if s.params.ok then acceptInput s else .refused .illFormedConfig

/-- The instruction of an opcode-table row presented as the next input: a 16-bit row is a port word of its agent; an 8-bit row is an
effect code or, for 0x85, the slave-link "broadcast off" (logs 9, 10, 19). -/
def State.withFetchWord (s : State) (nbits w : Nat) : State :=
  if nbits = 16 then presentWord (ownerOfOp (portOp (BitVec.ofNat 16 w))) (BitVec.ofNat 16 w) s
  else if nbits = 8 then
    if BitVec.ofNat 8 w = SC_SLAVE then presentSlaveLinkOff s else presentEffect (BitVec.ofNat 8 w) s
  else s

end Sys2Proof.Machine
end

