-- ==== Sys2Proof/Safety.lean ====
section
/-!
DEFINITION. What counts as a state the block can be in: the bounds and the invariants of 10_state.md R20 to R36; and the notions the
statements are written in: the unread frames of a queue, the words an agent presents, which states differ only in what.
-/

namespace Sys2Proof.Machine

/-! ## Queues as sequences of unread frames (10_state.md R36) -/

/-- The number of unread frames of a queue of `n` slots (R36). -/
def Queue.count (q : Queue) (n : Nat) : Nat := (q.head + n - q.tail) % n

/-- The unread frames of a queue of `n` slots, oldest first (R36). -/
def Queue.unread (q : Queue) (n : Nat) : List Bytes :=
  (List.range (q.count n)).map (fun i => q.slot.getD ((q.tail + i) % n) [])

/-- `q'` is the queue of `n` slots `q` after pushes of the frames `fs`, in order and with no pop: those that fit are appended to the
unread frames, each of the others is counted as a drop, and the tail stays (43_tx_queues.md R94, R95). -/
abbrev Queue.TookFrames (n : Nat) (q : Queue) (fs : List Bytes) (q' : Queue) : Prop :=
  q'.unread n = q.unread n ++ fs.take (n - 1 - q.count n) ∧
    q'.drops = q.drops + BitVec.ofNat 32 (fs.length - (n - 1 - q.count n)) ∧ q'.tail = q.tail

/-! ## Bounds -/

/-- A parser with capacity `cap` is within its bounds (10_state.md R28, 42_parsers.md R83). -/
abbrev Parser.BoundsOk (p : Parser) (cap : Nat) : Prop :=
  p.buf.length = cap ∧ p.idx.toNat ≤ p.len.toNat ∧ p.len.toNat ≤ cap ∧
    (p.state = .collect → p.idx.toNat < p.len.toNat) ∧ (p.state = .waitEnd → p.idx = p.len ∧ 1 ≤ p.len.toNat)

/-- A queue of `n` slots for frames of at most `fmax` bytes is within its bounds (10_state.md R29, R36); its unread frames are not
empty (30_encoding.md R51). -/
abbrev Queue.BoundsOk (q : Queue) (n fmax : Nat) : Prop :=
  q.slot.length = n ∧ q.head < n ∧ q.tail < n ∧ (∀ f ∈ q.slot, f.length ≤ fmax) ∧ ∀ f ∈ q.unread n, 1 ≤ f.length

/-- A job table of `n` slots is within its bounds (10_state.md R30). -/
abbrev JobTable.BoundsOk (j : JobTable) (n : Nat) : Prop := j.slots.length = n ∧ j.cur < n

/-- Every array has the size the configuration gives it, and every index and count is in its range (10_state.md R20, R23, R27 to
R30): what keeps `MemRead` and `MemWrite` from faulting (20_memory.md R39). -/
abbrev State.BoundsOk (s : State) : Prop :=
  (s.cfg.length = s.params.maxCfg ∧ s.cfgCount ≤ s.params.maxCfg ∧ s.pollCur ≤ 255) ∧
  (s.stBuf.length = s.params.statusBufCap ∧ s.stLen ≤ s.params.statusBufCap) ∧
  (s.hp.BoundsOk s.params.hostRxCap ∧ s.sp.BoundsOk s.params.slaveRxCap) ∧
  (s.slq.BoundsOk s.params.slSlots s.params.slFrameMax ∧ s.pxq.BoundsOk s.params.pxSlots PX_FRAME_MAX) ∧
  (s.slj.BoundsOk s.params.slJobs ∧ s.pxj.BoundsOk s.params.pxJobs)

/-! ## Invariants -/

/-- Triggered connectors are alive, in the round and in the committed view (R33). -/
abbrev State.TrigWithinAlive (s : State) : Prop := s.roundTrig &&& ~~~s.roundAlive = 0#32 ∧ s.trig &&& ~~~s.alive = 0#32

/-- Bit 0, which no address has, is clear in the four connector masks (R34). -/
abbrev State.BitZeroClear (s : State) : Prop :=
  s.roundAlive.getLsbD 0 = false ∧ s.roundTrig.getLsbD 0 = false ∧ s.alive.getLsbD 0 = false ∧ s.trig.getLsbD 0 = false

/-- Two slots do not both hold the same active job. -/
abbrev Job.Distinct (a b : Job) : Prop := ¬ (a.active = true ∧ b.active = true ∧ a.target = b.target ∧ a.ind = b.ind)

/-- No two active slots hold the same job (R35). -/
abbrev JobTable.JobsUnique (j : JobTable) : Prop := j.slots.Pairwise Job.Distinct

/-- Both job tables hold each job at most once (R35). -/
abbrev State.JobsUnique (s : State) : Prop := s.slj.JobsUnique ∧ s.pxj.JobsUnique

/-- A state of the block in a well-formed configuration: the bounds and the three invariants. -/
abbrev State.Inv (s : State) : Prop :=
  s.params.ok = true ∧ s.BoundsOk ∧ s.TrigWithinAlive ∧ s.BitZeroClear ∧ s.JobsUnique

/-! ## Repeated operations -/

/-- Push the frames in order; also which pushes stored their frame. -/
def pushAll (name : ArrayName) (n : Nat) : List Bytes → Queue → Res (Queue × List Bool)
  | [], q => .next (q, [])
  | f :: fs, q =>
    (push name n q f).andThen fun r => (pushAll name n fs r.1).andThen fun t => .next (t.1, r.2 :: t.2)

/-- Pop as often as the first argument says; also what each pop gave. -/
def popTimes (name : ArrayName) (n : Nat) : Nat → Queue → Res (Queue × List (Option Bytes))
  | 0, q => .next (q, [])
  | k + 1, q => (pop name n q).andThen fun r => (popTimes name n k r.1).andThen fun t => .next (t.1, r.2 :: t.2)

/-- Call `EmitOne` as often as the first argument says, at one `tick`; also what each call reported. -/
def emitTimes (jname qname : ArrayName) (n m : Nat) (frame : Byte → Byte → Bytes) (tick : U32) :
    Nat → JobTable → Queue → Res (JobTable × Queue × List Bool)
  | 0, j, q => .next (j, q, [])
  | k + 1, j, q =>
    (emitOne jname qname n m frame tick j q).andThen fun e =>
      (emitTimes jname qname n m frame tick k e.table e.queue).andThen fun t => .next (t.1, t.2.1, e.emitted :: t.2.2)

/-- Call `EmitOne` once on each of successive ticks from `tick` on; `qs` lists what the queue holds at each call. The table after them, and
what each call reported. -/
def emitOverTicks (jname qname : ArrayName) (n m : Nat) (frame : Byte → Byte → Bytes) :
    U32 → List Queue → JobTable → Res (JobTable × List Bool)
  | _, [], j => .next (j, [])
  | tick, q :: qs, j =>
    (emitOne jname qname n m frame tick j q).andThen fun e =>
      (emitOverTicks jname qname n m frame (tick + 1#32) qs e.table).andThen fun t => .next (t.1, e.emitted :: t.2)

/-- Give a parser bytes in order; also the contents of the frames they complete. -/
def parseAll (name : ArrayName) (cap : Nat) : Bytes → Parser → Res (Parser × List Bytes)
  | [], p => .next (p, [])
  | b :: bs, p =>
    (parseByte name cap p b).andThen fun r =>
      (parseAll name cap bs r.parser).andThen fun t => .next (t.1, r.complete.toList ++ t.2)

/-! ## Views -/

/-- The job table `J(tbl)` (46_host_commands.md section 2). -/
def State.table (s : State) (tbl : Byte) : JobTable := if tbl = 0#8 then s.slj else s.pxj

/-- The state with the job table `J(tbl)` replaced. -/
def State.withTable (s : State) (tbl : Byte) (j : JobTable) : State :=
  if tbl = 0#8 then { s with slj := j } else { s with pxj := j }

/-- The active slots of a table of `n` slots in slot order from the cursor, wrapping (44_led_jobs.md R110). -/
def JobTable.activeSlots (j : JobTable) (n : Nat) : List Nat :=
  ((List.range n).map (fun o => (j.cur + o) % n)).filter (fun x => (j.slots[x]?).any (fun k => k.active))

/-- The frames of the jobs in these slots. -/
def JobTable.framesOf (j : JobTable) (frame : Byte → Byte → Bytes) (xs : List Nat) : List Bytes :=
  xs.filterMap (fun x => (j.slots[x]?).map (fun k => frame k.target k.ind))

/-- The jobs of a table, slot by slot, without the ticks at which they may be emitted. -/
def JobTable.jobs (j : JobTable) : List (Byte × Byte × Bool) := j.slots.map (fun k => (k.target, k.ind, k.active))

/-- The addresses of the active pairs among the first `n` complete pairs of an upload, by their place in the payload after the count
byte (46_host_commands.md R128): pair `k` is bytes `2k` and `2k + 1`. -/
def activePairs (n : Nat) (pairs : Bytes) : Bytes :=
  (List.range (min n (pairs.length / 2))).filterMap
    (fun k => if pairs.getD (2 * k + 1) 0#8 = 0x01#8 then some (pairs.getD (2 * k) 0#8) else none)

/-- The mask of entry `j` of the connector map (00_scope.md R12). -/
def State.entryMask (s : State) (j : Nat) : U32 := addrBit (s.cfg.getD j 0#8)

/-- A one-shot applies to entry `j` (45_status_frame.md R113, entry 1 of the priority list). -/
def State.oneshotHits (s : State) (j : Nat) : Bool := s.oneshotAll || decide (s.oneshotMask &&& s.entryMask j ≠ 0#32)

/-- Entry `j` is triggered (R112, R113). -/
def State.entryTrig (s : State) (j : Nat) : Bool := decide ((s.roundTrig ||| s.trig) &&& s.entryMask j ≠ 0#32)

/-- Entry `j` is alive (R112, R113). -/
def State.entryAlive (s : State) (j : Nat) : Bool := decide ((s.roundAlive ||| s.alive) &&& s.entryMask j ≠ 0#32)

/-- The port transactions (30_encoding.md R50). -/
def portTransaction : Instr → Bool
  | .tick | .hrx _ | .srx _ | .btn _ | .slqPop | .pxqPop | .stPeek | .stSent | .slqDrops | .pxqDrops => true
  | .reservedOp0 _ | .reservedOpB _ | .reservedOpC _ | .reservedOpD _ | .reservedOpE _ | .reservedOpF _ => true
  | _ => false

/-! ## Inputs (00_scope.md R6) -/

/-- The words agent `a` presents, in its own order. -/
def wordsOf (a : Agent) (l : List PortInput) : List PortWord :=
  l.filterMap (fun i => match i with
    | .word b w => if b = a then some w else none
    | .rst => none)

/-- The port word's conditions of illegality (30_encoding.md R52), issued by agent `a`. -/
def illegalWord (a : Agent) (w : PortWord) : Bool :=
  decide (w.toNat / 2 ^ 12 = 0) || decide (0xB ≤ w.toNat / 2 ^ 12) ||
  decide (w.toNat / 2 ^ 8 % 2 ^ 4 ≠ 0) ||
  (decide (w.toNat / 2 ^ 12 ∉ [0x2, 0x3, 0x4]) && decide (w.toNat % 2 ^ 8 ≠ 0)) ||
  decide (a ≠ match w.toNat / 2 ^ 12 with
    | 0x1 => Agent.tickSrc
    | 0x2 => Agent.hostRx
    | 0x3 => Agent.slaveRx
    | 0x4 => Agent.button
    | _ => Agent.consumer)

end Sys2Proof.Machine
end

