-- ==== Sys2Proof/Certificates/Slice0/Obligations.lean ====
section
/-!
DEFINITION. The statements for the provers, from the numbered rules of spec/. Every statement holds for every configuration, since the
configuration is part of the state; `s.params.ok = true` says that it is well-formed (00_scope.md R8).
-/

open Sys2Proof Sys2Proof.Machine

/-! ## Encodings -/

/-- The example words of 30_encoding.md R65 decode to the transactions they stand for; so do one effect code, one host frame and one
slave frame of 95_test_vectors.md (in its configuration). -/
def Obligations.ExampleWordsDecodeToTheirRows : Prop :=
  decodePort .tickSrc 0x1000#16 = .ok .tick ∧ decodePort .hostRx 0x2027#16 = .ok (.hrx 0x27#8) ∧
  decodePort .slaveRx 0x3016#16 = .ok (.srx 0x16#8) ∧ decodePort .button 0x4004#16 = .ok (.btn 0x04#8) ∧
  decodePort .consumer 0x7000#16 = .ok .stPeek ∧
  decodeEffect { code := 0x06#8, tbl := 1#8 } = .ok (.effBcastReq 1#8) ∧
  decode testConfiguration (.hostFrame [0x27#8, 0x04#8, 0x01#8, 0x00#8, 0x80#8, 0x16#8, 0x16#8]) =
    .ok (.scPoll 0x01#8 0x00#8 [0x16#8]) ∧
  decode testConfiguration (.slaveFrame [0x27#8, 0x03#8, 0x90#8, 0x05#8, 0x01#8, 0x16#8]) =
    .ok (.slaveStatusReply 0x05#8 0x01#8)

/-- Decoding the encoding of a well-formed instruction gives it back, for every instruction and every operand. -/
def Obligations.DecodeEncodeAgree : Prop :=
  ∀ (p : Params) (i : Instr), p.ok = true → i.wellFormed p = true → decode p (encode p i) = .ok i

/-- 30_encoding.md R52. `illegalWord` lists R52's four conditions; `encode` is the table of R50. -/
def Obligations.PortWordsRunOrAreRefused : Prop :=
  ∀ (s : State) (a : Agent) (w : PortWord) (rest : List PortInput), s.params.ok = true → s.port = .word a w :: rest →
    (illegalWord a w = true →
      step s = .next { s with port := rest, issuer := a, obs := s.obs ++ [.resp a .illegal] }) ∧
    (illegalWord a w = false →
      ∃ i, encode s.params i = .port a w ∧ step s = exec i { s with port := rest, issuer := a })

/-- A step runs the instruction its port word decodes to: it takes the word off the inputs, notes the agent, and is then `exec`. -/
def Obligations.StepRunsTheDecodedInstruction : Prop :=
  ∀ (s : State) (a : Agent) (w : PortWord) (rest : List PortInput) (i : Instr), s.params.ok = true →
    s.port = .word a w :: rest → decodePort a w = .ok i → step s = exec i { s with port := rest, issuer := a }

/-- With no input presented the block holds its state (60_exceptions.md R153; log 7 is the model's step for it). -/
def Obligations.StepWithoutInputHoldsState : Prop :=
  ∀ s : State, s.params.ok = true → s.port = [] → step s = .next s

/-- An effect record is applied as the instruction it decodes to (30_encoding.md R63). -/
def Obligations.EffectRecordsRunTheirRow : Prop :=
  ∀ (e : EffectRec) (s : State) (i : Instr), decodeEffect e = .ok i → applyEffect e s = exec i s

/-- A completed frame does what the instruction it decodes to does (42_parsers.md R89 to R91). -/
def Obligations.CompletedFramesRunTheirRow : Prop :=
  (∀ (f : Bytes) (s : State) (i : Instr), decodeHost s.params f = .ok i → hostFrame f s = exec i s) ∧
  ∀ (f : Bytes) (s : State), slaveFrame f s = exec (decodeSlave s.params f) s

/-- The reserved port words are refused in their step, whatever their other bits (30_encoding.md R52): the instruction completes
with the response `ILLEGAL` and changes nothing else. -/
def Obligations.ReservedWordsAnswerIllegal : Prop :=
  ∀ (s : State) (low : BitVec 12), ∀ i ∈ [Instr.reservedOp0 low, .reservedOpB low, .reservedOpC low, .reservedOpD low,
      .reservedOpE low, .reservedOpF low],
    exec i s = .next { s with obs := s.obs ++ [.resp s.issuer .illegal] }

/-! ## The byte parsers -/

/-- 42_parsers.md R81 to R83, for both channels. -/
def Obligations.ParserBytesBeforeEnd : Prop :=
  ∀ (s : State) (b : Byte), s.BoundsOk →
    ((s.hp.state = .waitStart → exec (.hrx b) s = .next { s with
        hp := if b = 0x27#8 then { s.hp with state := .waitLen } else s.hp
        obs := s.obs ++ [.resp s.issuer .ack] }) ∧
     (s.hp.state = .waitLen → exec (.hrx b) s = .next { s with
        hp := if b = 0#8 ∨ s.params.hostRxCap < b.toNat then { s.hp with state := .waitStart }
              else { s.hp with len := b, idx := 0#8, state := .collect }
        obs := s.obs ++ [.resp s.issuer .ack] }) ∧
     (s.hp.state = .collect → exec (.hrx b) s = .next { s with
        hp := { s.hp with
          buf := s.hp.buf.set s.hp.idx.toNat b
          idx := s.hp.idx + 1#8
          state := if s.hp.idx.toNat + 1 = s.hp.len.toNat then .waitEnd else .collect }
        obs := s.obs ++ [.resp s.issuer .ack] })) ∧
    ((s.sp.state = .waitStart → exec (.srx b) s = .next { s with
        sp := if b = 0x27#8 then { s.sp with state := .waitLen } else s.sp
        obs := s.obs ++ [.resp s.issuer .ack] }) ∧
     (s.sp.state = .waitLen → exec (.srx b) s = .next { s with
        sp := if b = 0#8 ∨ s.params.slaveRxCap < b.toNat then { s.sp with state := .waitStart }
              else { s.sp with len := b, idx := 0#8, state := .collect }
        obs := s.obs ++ [.resp s.issuer .ack] }) ∧
     (s.sp.state = .collect → exec (.srx b) s = .next { s with
        sp := { s.sp with
          buf := s.sp.buf.set s.sp.idx.toNat b
          idx := s.sp.idx + 1#8
          state := if s.sp.idx.toNat + 1 = s.sp.len.toNat then .waitEnd else .collect }
        obs := s.obs ++ [.resp s.issuer .ack] }))

/-- 42_parsers.md R84, for both channels: in `WAIT_END` the parser goes to `WAIT_START` whatever the byte; `0x16` hands the collected
frame on in the same step, and any other byte, `START` among them (R85), discards it. -/
def Obligations.ParserByteAtEnd : Prop :=
  ∀ (s : State) (b : Byte), s.Inv →
    (s.hp.state = .waitEnd →
      (b ≠ 0x16#8 → exec (.hrx b) s =
        .next { s with hp := { s.hp with state := .waitStart }, obs := s.obs ++ [.resp s.issuer .ack] }) ∧
      (b = 0x16#8 → ∃ t, hostFrame (s.hp.buf.take s.hp.len.toNat) { s with hp := { s.hp with state := .waitStart } } = .next t ∧
        exec (.hrx b) s = .next { t with obs := t.obs ++ [.resp s.issuer .ack] } ∧
        t.hp = { s.hp with state := .waitStart } ∧ t.lastActivity = s.tick)) ∧
    (s.sp.state = .waitEnd →
      (b ≠ 0x16#8 → exec (.srx b) s =
        .next { s with sp := { s.sp with state := .waitStart }, obs := s.obs ++ [.resp s.issuer .ack] }) ∧
      (b = 0x16#8 → ∃ t, slaveFrame (s.sp.buf.take s.sp.len.toNat) { s with sp := { s.sp with state := .waitStart } } = .next t ∧
        exec (.srx b) s = .next { t with obs := t.obs ++ [.resp s.issuer .ack] } ∧
        t.sp = { s.sp with state := .waitStart } ∧ t.lastActivity = s.lastActivity))

/-- 30_encoding.md R61: the bytes between LEN and END are taken whatever their values, and exactly LEN of them. -/
def Obligations.ParserTakesAnyContent : Prop :=
  ∀ (name : ArrayName) (cap : Nat) (p : Parser) (f : Bytes), p.state = .waitStart → p.buf.length = cap →
    1 ≤ f.length → f.length ≤ cap → cap ≤ 255 →
    ∃ p', parseAll name cap (0x27#8 :: BitVec.ofNat 8 f.length :: f ++ [0x16#8]) p = .next (p', [f]) ∧
      p'.state = .waitStart ∧ p'.buf.length = cap

/-- 42_parsers.md R86: a byte on one channel neither changes nor reads the other channel's parser. -/
def Obligations.ParsersShareNoState : Prop :=
  ∀ (s t : State) (b : Byte) (other : Parser),
    (exec (.hrx b) s = .next t → t.sp = s.sp ∧ exec (.hrx b) { s with sp := other } = .next { t with sp := other }) ∧
    (exec (.srx b) s = .next t → t.hp = s.hp ∧ exec (.srx b) { s with hp := other } = .next { t with hp := other })

/-! ## Slave replies -/

/-- 42_parsers.md R92 and R93: the whole effect of a status reply of an address in 1..31 with a state that is not zero. -/
def Obligations.SlaveReplyUpdatesMasks : Prop :=
  ∀ (s : State) (a st : Byte), 1 ≤ a.toNat → a.toNat ≤ 31 → st ≠ 0#8 →
    let m : U32 := 1#32 <<< a.toNat
    let upd : U32 → U32 := fun v => if st = s.params.trigSentinel then v ||| m else v &&& ~~~m
    let streaming : Bool := s.slj.slots.any (fun k => k.active)
    exec (.slaveStatusReply a st) s = .next { s with
      roundAlive := s.roundAlive ||| m
      roundTrig := upd s.roundTrig
      alive := if streaming then s.alive ||| m else s.alive
      trig := if streaming then upd s.trig else s.trig }

/-- 42_parsers.md R90 and R91: a completed slave frame is a status reply only with three bytes and `SC_SLAVE_STATUS` first; any other
frame, and a status reply of an address outside 1..31 or with a zero state, changes nothing. -/
def Obligations.SlaveFramesAreRepliesOrIgnored : Prop :=
  ∀ s : State,
    (∀ a st : Byte, 1 ≤ a.toNat → a.toNat ≤ 31 → st ≠ 0#8 →
      slaveFrame [s.params.scSlaveStatus, a, st] s = exec (.slaveStatusReply a st) s) ∧
    (∀ f : Bytes, ¬ (f.length = 3 ∧ f[0]? = some s.params.scSlaveStatus) →
      slaveFrame f s = .next s ∧ exec (.slaveIgnoredShape f) s = .next s) ∧
    ∀ a st : Byte, a.toNat < 1 ∨ 31 < a.toNat ∨ st = 0#8 →
      slaveFrame [s.params.scSlaveStatus, a, st] s = .next s ∧ exec (.slaveIgnoredValue a st) s = .next s

/-- 00_scope.md R12, bit by bit. -/
def Obligations.AddressMaskIsOneBit : Prop :=
  ∀ (a : Byte) (j : Nat), (addrBit a).getLsbD j = decide (1 ≤ a.toNat ∧ a.toNat ≤ 31 ∧ j = a.toNat)

/-! ## Host frames -/

/-- 42_parsers.md R89, for every completed frame: `last_activity`; no more for a frame of fewer than three bytes or a code outside
dom(DISPATCH); else its list of effects and one build. -/
def Obligations.HostFramesFollowTheirServiceCode : Prop :=
  ∀ (s : State),
    (∀ f : Bytes, f.length < 3 → hostFrame f s = .next { s with lastActivity := s.tick }) ∧
    ∀ (g a sc : Byte) (pl : Bytes),
      (¬ s.params.InDom sc → hostFrame (g :: a :: sc :: pl) s = .next { s with lastActivity := s.tick }) ∧
      (s.params.InDom sc → ∃ es, s.params.dispatch sc g a pl = some es ∧
        hostFrame (g :: a :: sc :: pl) s =
          (applyEffects es { s with lastActivity := s.tick }).andThen (exec .statusFrameSent)) ∧
      ∀ (e : EffectRec) (es : List EffectRec) (u : State),
        applyEffects [] u = .next u ∧ applyEffects (e :: es) u = (applyEffect e u).andThen (applyEffects es)

/-- 46_host_commands.md R127 with 42_parsers.md R89: a host frame of a named service code writes `last_activity`, applies its list in
order and builds once; it always completes. -/
def Obligations.NamedHostFramesApplyTheirListAndBuild : Prop :=
  ∀ (s : State) (g a : Byte) (pl : Bytes), s.Inv →
    ∀ x ∈ [(Instr.scPoll g a pl, s.params.scPoll), (.scLedCtrl g a pl, s.params.scLedCtrl),
        (.scOneshotLedReset g a pl, s.params.scOneshotLedReset), (.scMapUpload g a pl, s.params.scMapUpload),
        (.scLedReset g a pl, s.params.scLedReset), (.scRelaySet g a pl, s.params.scRelaySet),
        (.scBtnReset g a pl, s.params.scBtnReset), (.scPxMask g a pl, s.params.scPxMask)],
      ∃ es u t, s.params.dispatch x.2 g a pl = some es ∧ applyEffects es { s with lastActivity := s.tick } = .next u ∧
        exec .statusFrameSent u = .next t ∧ exec x.1 s = .next t ∧ t.lastActivity = s.tick ∧
        t = { s with
          lastActivity := s.tick, obs := t.obs, bcastPendSl := t.bcastPendSl, bcastPendPx := t.bcastPendPx, cfg := t.cfg
          cfgCount := t.cfgCount, oneshotAll := t.oneshotAll, oneshotMask := t.oneshotMask, forceTrig := t.forceTrig
          statusExt := t.statusExt, stBuf := t.stBuf, stLen := t.stLen, slj := t.slj, pxj := t.pxj }

/-- 46_host_commands.md R124: the two fixed entries and the excluded code, and what the three frames then do. -/
def Obligations.FixedDispatchEntries : Prop :=
  ∀ (s : State) (g a : Byte) (pl : Bytes), s.params.ok = true →
    s.params.dispatch s.params.scMapUpload g a pl = some [{ code := 0x01#8, bytes := pl }] ∧
    s.params.dispatch s.params.scPoll g a pl = some [] ∧
    s.params.dispatch s.params.scStatusReply g a pl = none ∧
    exec (.scPoll g a pl) s = exec .statusFrameSent { s with lastActivity := s.tick } ∧
    exec (.scMapUpload g a pl) s =
      (Res.andThen (exec (.effMapUpload pl) { s with lastActivity := s.tick }) (exec .statusFrameSent)) ∧
    exec (.scStatusReplyReceived g a pl) s = .next { s with lastActivity := s.tick }

/-- 46_host_commands.md R125: the named codes are in dom(DISPATCH), distinct, and their lists hold only the effect codes of R125's
table; the lists of further codes hold effect codes of 30_encoding.md R63. -/
def Obligations.DispatchListsObeyTheirTable : Prop :=
  ∀ (p : Params), p.ok = true →
    (p.scStatusReply :: p.namedCodes).Nodup ∧ (∀ sc ∈ p.namedCodes, p.InDom sc) ∧
    ∀ (sc g a : Byte) (pl : Bytes) (es : List EffectRec), p.dispatch sc g a pl = some es → ∀ e ∈ es,
      (e.code ∈ effectCodes ∧ (e.code ∈ tblCodes → e.tbl = 0#8 ∨ e.tbl = 1#8)) ∧
      (sc = p.scLedCtrl → e.code ∈ [0x02#8, 0x03#8, 0x04#8, 0x05#8, 0x06#8]) ∧
      (sc = p.scOneshotLedReset → e.code ∈ [0x07#8, 0x08#8, 0x03#8, 0x04#8, 0x05#8, 0x06#8]) ∧
      (sc = p.scLedReset → e.code ∈ [0x03#8, 0x04#8, 0x05#8, 0x06#8]) ∧
      (sc = p.scRelaySet → e.code = 0x09#8) ∧ (sc = p.scBtnReset → e.code = 0x0A#8) ∧
      (sc = p.scPxMask → e.code = 0x0B#8)

/-- 46_host_commands.md R126: the unrecognised arm. -/
def Obligations.UnrecognisedHostFramesOnlyNoteActivity : Prop :=
  ∀ s : State,
    (∀ f : Bytes, (f.length < 3 ∨ ∃ sc, f[2]? = some sc ∧ ¬ s.params.InDom sc) →
      hostFrame f s = .next { s with lastActivity := s.tick } ∧
      exec (.hostUnrecognised f) s = .next { s with lastActivity := s.tick }) ∧
    ∀ (g a : Byte) (pl : Bytes), exec (.scStatusReplyReceived g a pl) s = .next { s with lastActivity := s.tick }

/-! ## Effects -/

/-- 46_host_commands.md R128. `activePairs` reads the pairs by their place in the payload. -/
def Obligations.MapUploadReplacesTheMap : Prop :=
  ∀ (s : State), s.BoundsOk →
    (∀ pl, encode s.params (.effMapUpload pl) = .effect { code := 0x01#8, bytes := pl }) ∧
    exec (.effMapUpload []) s = .next s ∧
    ∀ (n : Byte) (pairs : Bytes),
      let new := (activePairs n.toNat pairs).take s.params.maxCfg
      exec (.effMapUpload (n :: pairs)) s = .next { s with cfg := new ++ s.cfg.drop new.length, cfgCount := new.length }

/-- 44_led_jobs.md R104 through 46_host_commands.md R129, for both tables: an identical active job, the inactive slot of least index,
a full table. -/
def Obligations.JobStartFillsTheFirstFreeSlot : Prop :=
  ∀ (s : State) (tbl t i : Byte), tbl = 0#8 ∨ tbl = 1#8 →
    let slots := (s.table tbl).slots
    encode s.params (.effJobStart tbl t i) = .effect { code := 0x02#8, tbl := tbl, target := t, ind := i } ∧
    ((∃ k ∈ slots, k.active = true ∧ k.target = t ∧ k.ind = i) → exec (.effJobStart tbl t i) s = .next s) ∧
    (¬ (∃ k ∈ slots, k.active = true ∧ k.target = t ∧ k.ind = i) →
      (∀ n, (∃ k, slots[n]? = some k ∧ k.active = false) → (∀ m < n, ∀ k, slots[m]? = some k → k.active = true) →
        exec (.effJobStart tbl t i) s = .next (s.withTable tbl { (s.table tbl) with
          slots := slots.set n { target := t, ind := i, next := s.tick, active := true } }) ∧
        ({ target := t, ind := i, next := s.tick, active := true } : Job).isDue (s.tick + 1#32) = true) ∧
      ((∀ k ∈ slots, k.active = true) → exec (.effJobStart tbl t i) s = .next s))

/-- 44_led_jobs.md R105 to R107, for both tables: which slots become inactive; no other field and not the cursor change. -/
def Obligations.JobStopsClearTheMatchingSlots : Prop :=
  ∀ (s : State) (tbl t i : Byte), tbl = 0#8 ∨ tbl = 1#8 →
    let cleared : (Job → Bool) → State := fun hit => s.withTable tbl { (s.table tbl) with
      slots := (s.table tbl).slots.map (fun k => { k with active := k.active && !hit k }) }
    encode s.params (.effJobStopInd tbl i) = .effect { code := 0x03#8, tbl := tbl, ind := i } ∧
    encode s.params (.effJobStopAll tbl) = .effect { code := 0x04#8, tbl := tbl } ∧
    encode s.params (.effJobRemoveExcept tbl t i) = .effect { code := 0x05#8, tbl := tbl, target := t, ind := i } ∧
    exec (.effJobStopInd tbl i) s = .next (cleared (fun k => decide (k.ind = i))) ∧
    exec (.effJobStopAll tbl) s = .next (cleared (fun _ => true)) ∧
    exec (.effJobRemoveExcept tbl t i) s = .next (cleared (fun k => decide (k.target = t ∧ k.ind ≠ i)))

/-- 46_host_commands.md R133 to R138: the code of each and its whole effect. -/
def Obligations.PlainEffects : Prop :=
  ∀ (s : State) (all : Bool) (mask : U32) (value : Bytes),
    (∀ tbl, encode s.params (.effBcastReq tbl) = .effect { code := 0x06#8, tbl := tbl }) ∧
    encode s.params (.effOneshotSet all mask) = .effect { code := 0x07#8, all := all, mask := mask } ∧
    encode s.params (.effForceSet mask) = .effect { code := 0x08#8, mask := mask } ∧
    encode s.params (.effRelaySet value) = .effect { code := 0x09#8, bytes := value } ∧
    encode s.params .effBtnReset = .effect { code := 0x0A#8 } ∧
    encode s.params (.effPxMask value) = .effect { code := 0x0B#8, bytes := value } ∧
    exec (.effBcastReq 0#8) s = .next { s with bcastPendSl := true } ∧
    exec (.effBcastReq 1#8) s = .next { s with bcastPendPx := true } ∧
    exec (.effOneshotSet all mask) s = .next { s with oneshotAll := all, oneshotMask := mask } ∧
    exec (.effForceSet mask) s = .next { s with forceTrig := mask } ∧
    exec (.effRelaySet value) s = .next { s with obs := s.obs ++ [.event (.relaySet value)] } ∧
    exec .effBtnReset s = .next { s with statusExt := 0#8 } ∧
    exec (.effPxMask value) s = .next { s with obs := s.obs ++ [.event (.pxSetMask value)] }

/-- 30_encoding.md R63: a reserved code, and a table selector outside 0..1, are refused. That applying the record is refused, and not
only the configuration (`IllFormedConfigurationIsRefused`), is the model's choice (log 15). -/
def Obligations.IllFormedEffectsAreRefused : Prop :=
  ∀ (s : State) (code tbl t i : Byte),
    exec (.reservedEffect code) s = .refused (.reservedEffectCode code) ∧
    (tbl ≠ 0#8 → tbl ≠ 1#8 → ∀ e ∈ [Instr.effJobStart tbl t i, .effJobStopInd tbl i, .effJobStopAll tbl,
        .effJobRemoveExcept tbl t i, .effBcastReq tbl], exec e s = .refused (.badTableSelector tbl))

/-! ## Transmit queues -/

/-- 43_tx_queues.md R96 to R98. -/
def Obligations.PopsTakeTheOldestFrame : Prop :=
  ∀ (s : State), s.BoundsOk →
    encode s.params .slqPop = .port .consumer 0x5000#16 ∧ encode s.params .pxqPop = .port .consumer 0x6000#16 ∧
    (s.slq.head = s.slq.tail → exec .slqPop s = .next { s with obs := s.obs ++ [.resp s.issuer .empty] }) ∧
    (s.slq.head ≠ s.slq.tail → ∃ f, s.slq.slot[s.slq.tail]? = some f ∧ 1 ≤ f.length ∧
      exec .slqPop s = .next { s with
        slq := { s.slq with tail := (s.slq.tail + 1) % s.params.slSlots }
        obs := s.obs ++ [.resp s.issuer (.frame f)] }) ∧
    (s.pxq.head = s.pxq.tail → exec .pxqPop s = .next { s with obs := s.obs ++ [.resp s.issuer .empty] }) ∧
    (s.pxq.head ≠ s.pxq.tail → ∃ f, s.pxq.slot[s.pxq.tail]? = some f ∧ 1 ≤ f.length ∧
      exec .pxqPop s = .next { s with
        pxq := { s.pxq with tail := (s.pxq.tail + 1) % s.params.pxSlots }
        obs := s.obs ++ [.resp s.issuer (.frame f)] })

/-- 10_state.md R36 with 43_tx_queues.md R94 to R96: a ring of `n` slots is a first-in first-out sequence of at most `n - 1` frames,
and a push of a frame that the queue admits, and a pop, leave it within its bounds. -/
def Obligations.RingIsABoundedFifo : Prop :=
  ∀ (name : ArrayName) (n fmax : Nat) (q : Queue) (f : Bytes), 2 ≤ n → q.BoundsOk n fmax →
    (q.unread n).length = q.count n ∧ q.count n ≤ n - 1 ∧
    (∃ q' b, push name n q f = .next (q', b) ∧
      (q.count n = n - 1 → b = false ∧ q' = { q with drops := q.drops + 1#32 }) ∧
      (q.count n < n - 1 → b = true ∧ q'.unread n = q.unread n ++ [f] ∧ q'.tail = q.tail ∧ q'.drops = q.drops) ∧
      (1 ≤ f.length → f.length ≤ fmax → q'.BoundsOk n fmax)) ∧
    ∃ q' r, pop name n q = .next (q', r) ∧ q'.BoundsOk n fmax ∧ q'.head = q.head ∧ q'.drops = q.drops ∧ q'.slot = q.slot ∧
      r = (q.unread n).head? ∧ q'.unread n = (q.unread n).tail

/-- 43_tx_queues.md R101. -/
def Obligations.RingKeepsOrderUpToCapacity : Prop :=
  ∀ (name : ArrayName) (n fmax : Nat) (q : Queue) (fs : List Bytes) (f : Bytes), 2 ≤ n → q.BoundsOk n fmax →
    q.head = q.tail → fs.length = n - 1 →
    ∃ q₁ q₂, pushAll name n fs q = .next (q₁, List.replicate (n - 1) true) ∧ q₁.drops = q.drops ∧
      push name n q₁ f = .next ({ q₁ with drops := q₁.drops + 1#32 }, false) ∧
      popTimes name n n { q₁ with drops := q₁.drops + 1#32 } = .next (q₂, fs.map some ++ [none])

/-- 43_tx_queues.md R99, R100: the drop counters are read and nothing is written. -/
def Obligations.DropCountersAreRead : Prop :=
  ∀ (s : State),
    encode s.params .slqDrops = .port .consumer 0x9000#16 ∧ encode s.params .pxqDrops = .port .consumer 0xA000#16 ∧
    exec .slqDrops s = .next { s with obs := s.obs ++ [.resp s.issuer (.value s.slq.drops)] } ∧
    exec .pxqDrops s = .next { s with obs := s.obs ++ [.resp s.issuer (.value s.pxq.drops)] }

/-- 30_encoding.md section 2 (R57) with 43_tx_queues.md section 1 (R95): the slave-link frames that carry `SLAVE (0x85)` have length 1 to
`SL_FRAME_MAX`, and making one pushes it: a drop where the queue is full, else the next slot. That a frame "carries" the code means
that the code is among its bytes is the model's reading (log 11). -/
def Obligations.SlaveLinkFramesArePushed : Prop :=
  ∀ (s : State) (k : SlaveLinkFrame), s.params.ok = true → s.BoundsOk →
    0x85#8 ∈ s.params.slaveLink k ∧ 1 ≤ (s.params.slaveLink k).length ∧ (s.params.slaveLink k).length ≤ s.params.slFrameMax ∧
    exec (.slaveLinkFrameSent k) s = .next { s with
      slq := if (s.slq.head + 1) % s.params.slSlots = s.slq.tail then { s.slq with drops := s.slq.drops + 1#32 }
             else { s.slq with
               slot := s.slq.slot.set s.slq.head (s.params.slaveLink k)
               head := (s.slq.head + 1) % s.params.slSlots } }

/-! ## LED jobs -/

/-- 44_led_jobs.md R108: no due slot, no emission and no change; else the first due slot from the cursor. -/
def Obligations.EmitOneTakesTheFirstDueSlot : Prop :=
  ∀ (jn qn : ArrayName) (n m : Nat) (F : Byte → Byte → Bytes) (tick : U32) (j : JobTable) (q : Queue),
    j.BoundsOk n → q.head < q.slot.length →
    let due : Job → Prop := fun k => k.active = true ∧ 0 ≤ sdiff32 tick k.next
    ((∀ k ∈ j.slots, ¬ due k) → emitOne jn qn n m F tick j q = .next { table := j, queue := q, emitted := false }) ∧
    ∀ (o : Nat) (k : Job), o < n → j.slots[(j.cur + o) % n]? = some k → due k →
      (∀ o' < o, ∀ k', j.slots[(j.cur + o') % n]? = some k' → ¬ due k') →
      ∃ q' b, push qn m q (F k.target k.ind) = .next (q', b) ∧
        emitOne jn qn n m F tick j q = .next {
          table := { slots := j.slots.set ((j.cur + o) % n) { k with next := tick + 1#32 }, cur := ((j.cur + o) % n + 1) % n }
          queue := q'
          emitted := true }

/-- 44_led_jobs.md section 3 (R110) with R108: round-robin fairness at one `tick`. The first `i` calls emit the first `i` active slots in
slot order from the cursor, each once, whatever room the queue has: a frame that finds no room is a drop (43_tx_queues.md R95). -/
def Obligations.EmissionIsFair : Prop :=
  ∀ (jn qn : ArrayName) (n m fmax : Nat) (F : Byte → Byte → Bytes) (tick : U32) (j : JobTable) (q : Queue),
    j.BoundsOk n → 2 ≤ m → q.BoundsOk m fmax →
    (∀ k ∈ j.slots, k.active = true → 0 ≤ sdiff32 tick k.next) →
    let order := j.activeSlots n
    order.Nodup ∧ order.length = (j.slots.filter (fun k => k.active)).length ∧
    ∀ i ≤ order.length, ∃ j' q', emitTimes jn qn n m F tick i j q = .next (j', q', List.replicate i true) ∧
      (∀ x : Nat, j'.slots[x]? = (j.slots[x]?).map (fun k => if x ∈ order.take i then { k with next := tick + 1#32 } else k)) ∧
      (∀ x, (order.take i).getLast? = some x → j'.cur = (x + 1) % n) ∧
      q.TookFrames m (j.framesOf F (order.take i)) q' ∧
      (i = order.length → emitOne jn qn n m F tick j' q' = .next { table := j', queue := q', emitted := false })

/-- 44_led_jobs.md section 3 (R110), its last sentence: on successive ticks, with the jobs unchanged and due, `EmitOne` emits one job on
each, in cyclic slot order, whatever the queue holds. A job that is due stays due until its turn where it has not waited too long for the
signed comparison (R109). -/
def Obligations.EmissionIsCyclicOverTicks : Prop :=
  ∀ (jn qn : ArrayName) (n m : Nat) (F : Byte → Byte → Bytes) (tick : U32) (j : JobTable) (qs : List Queue) (q : Queue),
    let order := j.activeSlots n
    j.BoundsOk n → 1 ≤ order.length → (∀ q' ∈ q :: qs, q'.head < q'.slot.length) →
    (∀ k ∈ j.slots, k.active = true → 0 ≤ sdiff32 tick k.next ∧ sdiff32 tick k.next + order.length ≤ 2 ^ 31) →
    ∃ j', emitOverTicks jn qn n m F tick qs j = .next (j', List.replicate qs.length true) ∧ j'.jobs = j.jobs ∧
      let now := tick + BitVec.ofNat 32 qs.length
      ∃ x k q' b, order[qs.length % order.length]? = some x ∧ j'.slots[x]? = some k ∧ k.active = true ∧
        push qn m q (F k.target k.ind) = .next (q', b) ∧
        emitOne jn qn n m F now j' q = .next {
          table := { slots := j'.slots.set x { k with next := now + 1#32 }, cur := (x + 1) % n }
          queue := q'
          emitted := true }

/-- 44_led_jobs.md R109: the rate limit of a job emitted at tick `T`. -/
def Obligations.EmittedJobWaitsOneTick : Prop :=
  ∀ (k : Job) (T : U32), k.active = true → k.next = T + 1#32 →
    k.isDue T = false ∧ ∀ d : U32, (k.isDue (T + 1#32 + d) = true ↔ d.toNat < 2 ^ 31)

/-! ## TICK -/

/-- 41_tick_scheduler.md R69: a pending broadcast is pushed and its flag cleared before the rest of the `TICK`, also where the queue is
full. -/
def Obligations.TickServesBroadcastsFirst : Prop :=
  ∀ (s : State), s.BoundsOk →
    (s.bcastPendSl = true → ∃ q b, push .slqSlot s.params.slSlots s.slq s.params.slOffFrame = .next (q, b) ∧
      exec .tick s = exec .tick { s with slq := q, bcastPendSl := false }) ∧
    (s.bcastPendPx = true → ∃ q b, push .pxqSlot s.params.pxSlots s.pxq s.params.pxOffFrame = .next (q, b) ∧
      exec .tick s = exec .tick { s with pxq := q, bcastPendPx := false })

/-- 41_tick_scheduler.md R71 (with R68): an idle `TICK` with no broadcast left to serve. `TickServesBroadcastsFirst` brings every other
idle `TICK` to this case. -/
def Obligations.IdleTickSkipsTheRest : Prop :=
  ∀ (s : State), s.bcastPendSl = false → s.bcastPendPx = false →
    (s.params.idleTicks : Int) ≤ sdiff32 (s.tick + 1#32) s.lastActivity →
    exec .tick s = .next { s with
      tick := s.tick + 1#32
      bcastPendSl := true
      bcastPendPx := true
      idleCleared := true
      obs := s.obs ++ (if s.idleCleared then [] else [.event .pxClearAll]) ++
        [.event .pxRequestFlush, .resp s.issuer .ack] }

/-- 41_tick_scheduler.md R72: `k` consecutive `TICK`s of one idle episode clear the pixel buffer once at most, and exactly once where
`idle_cleared` was 0; each requests a flush; each from the second on, and the first where a broadcast was pending, pushes one OFF
broadcast frame onto each queue, stored or dropped, and no other frame; and both broadcasts are pending after them. -/
def Obligations.IdleEpisodeClearsThePixelBufferOnce : Prop :=
  ∀ (s : State) (k : Nat), s.Inv → 1 ≤ k → s.port = List.replicate k (.word .tickSrc 0x1000#16) →
    (∀ i : Nat, 1 ≤ i → i ≤ k → (s.params.idleTicks : Int) ≤ sdiff32 (s.tick + BitVec.ofNat 32 i) s.lastActivity) →
    ∃ t, Host.Core.run core k s = .next t ∧ t.tick = s.tick + BitVec.ofNat 32 k ∧
      t.idleCleared = true ∧ t.bcastPendSl = true ∧ t.bcastPendPx = true ∧
      t.obs.count (.event .pxClearAll) = s.obs.count (.event .pxClearAll) + (if s.idleCleared then 0 else 1) ∧
      t.obs.count (.event .pxRequestFlush) = s.obs.count (.event .pxRequestFlush) + k ∧
      s.slq.TookFrames s.params.slSlots (List.replicate (if s.bcastPendSl then k else k - 1) s.params.slOffFrame) t.slq ∧
      s.pxq.TookFrames s.params.pxSlots (List.replicate (if s.bcastPendPx then k else k - 1) s.params.pxOffFrame) t.pxq

/-- 41_tick_scheduler.md R73 to R76: a `TICK` that is not idle, with no broadcast left to serve. The slave-link emission is tried first;
then the branch after streaming, the poll with its clamp and its commit, or nothing; then the pixel-strip emission. -/
def Obligations.ActiveTickTakesOneBranch : Prop :=
  ∀ (s : State), s.Inv → s.bcastPendSl = false → s.bcastPendPx = false →
    sdiff32 (s.tick + 1#32) s.lastActivity < (s.params.idleTicks : Int) →
    ∃ e x, emitOne .sljSlot .slqSlot s.params.slJobs s.params.slSlots s.params.slLed (s.tick + 1#32) s.slj s.slq = .next e ∧
      emitOne .pxjSlot .pxqSlot s.params.pxJobs s.params.pxSlots s.params.pxLed (s.tick + 1#32) s.pxj s.pxq = .next x ∧
      (e.emitted = true → exec .tick s = .next { s with
        tick := s.tick + 1#32, idleCleared := false, slj := e.table, slq := e.queue, ledActive := true
        pxj := x.table, pxq := x.queue
        obs := s.obs ++ [.event .pxRequestFlush, .event .pxRequestFlush, .resp s.issuer .ack] }) ∧
      (e.emitted = false → s.ledActive = true → exec .tick s = .next { s with
        tick := s.tick + 1#32, idleCleared := false, ledActive := false, pollCur := 0, pxj := x.table, pxq := x.queue
        obs := s.obs ++ [.event .pxRequestFlush, .resp s.issuer .ack] }) ∧
      (e.emitted = false → s.ledActive = false → s.cfgCount = 0 → exec .tick s = .next { s with
        tick := s.tick + 1#32, idleCleared := false, pxj := x.table, pxq := x.queue
        obs := s.obs ++ [.event .pxRequestFlush, .resp s.issuer .ack] }) ∧
      (e.emitted = false → s.ledActive = false → 0 < s.cfgCount →
        let cur := if s.cfgCount ≤ s.pollCur then 0 else s.pollCur
        ∃ a q b, s.cfg[cur]? = some a ∧ push .slqSlot s.params.slSlots s.slq (s.params.slPoll a) = .next (q, b) ∧
          exec .tick s = .next { s with
            tick := s.tick + 1#32, idleCleared := false, slq := q, pollCur := (cur + 1) % s.cfgCount
            alive := if cur = 0 then s.roundAlive else s.alive
            trig := if cur = 0 then s.roundTrig &&& s.roundAlive else s.trig
            roundAlive := if cur = 0 then 0#32 else s.roundAlive
            roundTrig := if cur = 0 then 0#32 else s.roundTrig
            pxj := x.table, pxq := x.queue
            obs := s.obs ++ [.event .pxRequestFlush, .resp s.issuer .ack] })

/-- 41_tick_scheduler.md section 3 (R78): what one `TICK` pushes onto each queue, stored or dropped: the OFF broadcast where it is
pending, then at most one frame more, of a due job or, on `slq`, a poll of a mapped connector; on the idle path no frame more. -/
def Obligations.TickPushesAtMostTwoFrames : Prop :=
  ∀ (s : State), s.Inv → ∃ t fs gs, exec .tick s = .next t ∧
    s.slq.TookFrames s.params.slSlots ((if s.bcastPendSl then [s.params.slOffFrame] else []) ++ fs) t.slq ∧
    s.pxq.TookFrames s.params.pxSlots ((if s.bcastPendPx then [s.params.pxOffFrame] else []) ++ gs) t.pxq ∧
    fs.length ≤ 1 ∧ gs.length ≤ 1 ∧
    (∀ f ∈ fs,
      (∃ k ∈ s.slj.slots, k.active = true ∧ 0 ≤ sdiff32 (s.tick + 1#32) k.next ∧ f = s.params.slLed k.target k.ind) ∨
      ∃ a ∈ s.cfg.take s.cfgCount, f = s.params.slPoll a) ∧
    (∀ g ∈ gs, ∃ k ∈ s.pxj.slots, k.active = true ∧ 0 ≤ sdiff32 (s.tick + 1#32) k.next ∧ g = s.params.pxLed k.target k.ind) ∧
    ((s.params.idleTicks : Int) ≤ sdiff32 (s.tick + 1#32) s.lastActivity → fs = [] ∧ gs = [])

/-- 41_tick_scheduler.md section 3 (R79): the ticks on which the idle condition holds. -/
def Obligations.IdleConditionWindow : Prop :=
  ∀ (s : State), s.params.ok = true →
    (s.isIdle = true ↔
      s.params.idleTicks ≤ (s.tick - s.lastActivity).toNat ∧ (s.tick - s.lastActivity).toNat ≤ 2 ^ 31 - 1)

/-- 00_scope.md section 5 (R11): `sdiff32` is in its range and congruent to the difference modulo 2^32. -/
def Obligations.SignedDifferenceIsWrapSafe : Prop :=
  ∀ (a b : U32), -(2 ^ 31) ≤ sdiff32 a b ∧ sdiff32 a b ≤ 2 ^ 31 - 1 ∧
    (sdiff32 a b - ((a.toNat : Int) - (b.toNat : Int))) % 2 ^ 32 = 0

/-! ## The status frame -/

/-- 45_status_frame.md R116. -/
def Obligations.OversizeBuildChangesNothing : Prop :=
  ∀ (s : State), s.params.statusBufCap < 7 + s.params.maxCfg + s.params.trailer.length → exec .statusFrameSent s = .next s

/-- 45_status_frame.md R113 to R118: the frame a build stores, status byte by status byte, and which force bits it clears. -/
def Obligations.BuildStoresTheResolvedFrame : Prop :=
  ∀ (s : State), s.BoundsOk → 7 + s.params.maxCfg + s.params.trailer.length ≤ s.params.statusBufCap →
    ∃ (st : Bytes) (force : U32), st.length = s.params.maxCfg ∧
      exec .statusFrameSent s = .next { s with
        stBuf := [0x27#8, BitVec.ofNat 8 (4 + s.params.maxCfg + s.params.trailer.length), s.params.groupApp, s.params.devAddr,
            s.params.scStatusReply, s.statusExt] ++ st ++ s.params.trailer ++ [0x16#8] ++
            s.stBuf.drop (7 + s.params.maxCfg + s.params.trailer.length)
        stLen := 7 + s.params.maxCfg + s.params.trailer.length
        forceTrig := force
        oneshotAll := false
        oneshotMask := 0#32 } ∧
      (∀ j < s.params.maxCfg, st[j]? = some (
        if s.cfgCount ≤ j then s.params.stIdle
        else if s.oneshotHits j = true then 0x01#8
        else if s.forceTrig &&& s.entryMask j ≠ 0#32 ∧ s.entryTrig j = true then 0x01#8
        else if s.entryAlive j = false then s.params.stIdle
        else if s.entryTrig j = true then s.params.stTrig else s.params.stAlive)) ∧
      ∀ k : Nat, force.getLsbD k = true ↔ s.forceTrig.getLsbD k = true ∧
        ∀ j < s.cfgCount, (s.entryMask j).getLsbD k = true → s.oneshotHits j = true ∨ s.entryTrig j = true

/-- 45_status_frame.md R119: a one-shot "all" shows in the next completed build for every configured connector, and in no build after
it. -/
def Obligations.OneshotIsConsumedOnce : Prop :=
  ∀ (s : State), s.BoundsOk → 7 + s.params.maxCfg + s.params.trailer.length ≤ s.params.statusBufCap → s.oneshotAll = true →
    ∃ t u, exec .statusFrameSent s = .next t ∧ exec .statusFrameSent t = .next u ∧
      ∀ j < s.cfgCount, t.stBuf[6 + j]? = some 0x01#8 ∧
        u.stBuf[6 + j]? = some (
          if s.forceTrig &&& s.entryMask j ≠ 0#32 ∧ s.entryTrig j = true then 0x01#8
          else if s.entryAlive j = false then s.params.stIdle
          else if s.entryTrig j = true then s.params.stTrig else s.params.stAlive)

/-- 45_status_frame.md R120. -/
def Obligations.PeekReadsTheSlot : Prop :=
  ∀ (s : State), s.BoundsOk →
    encode s.params .stPeek = .port .consumer 0x7000#16 ∧
    (s.stLen = 0 → exec .stPeek s = .next { s with obs := s.obs ++ [.resp s.issuer .empty] }) ∧
    (s.stLen ≠ 0 → exec .stPeek s = .next { s with obs := s.obs ++ [.resp s.issuer (.frame (s.stBuf.take s.stLen))] })

/-- 45_status_frame.md R121. -/
def Obligations.SentEmptiesTheSlot : Prop :=
  ∀ (s : State),
    encode s.params .stSent = .port .consumer 0x8000#16 ∧
    exec .stSent s = .next { s with stLen := 0, obs := s.obs ++ [.resp s.issuer .ack] }

/-- 45_status_frame.md R122: the bits are set and the frame is rebuilt (`BuildStoresTheResolvedFrame` says how). -/
def Obligations.ButtonSetsBitsAndRebuilds : Prop :=
  ∀ (s : State) (bits : Byte), s.BoundsOk →
    encode s.params (.btn bits) = .port .button (0x4000#16 ||| bits.setWidth 16) ∧
    ∃ t, exec .statusFrameSent { s with statusExt := s.statusExt ||| bits } = .next t ∧
      exec (.btn bits) s = .next { t with obs := s.obs ++ [.resp s.issuer .ack] } ∧
      t.statusExt = s.statusExt ||| bits

/-- 20_memory.md R43: the three read-only transactions answer the agent that issued them and change nothing else, and answer the same
when issued again. -/
def Obligations.ReadOnlyTransactionsRepeat : Prop :=
  ∀ (s : State), s.BoundsOk → ∀ i ∈ [Instr.stPeek, .slqDrops, .pxqDrops],
    ∃ r, exec i s = .next { s with obs := s.obs ++ [.resp s.issuer r] } ∧
      exec i { s with obs := s.obs ++ [.resp s.issuer r] } =
        .next { s with obs := s.obs ++ [.resp s.issuer r, .resp s.issuer r] }

/-! ## The whole machine -/

/-- 20_memory.md R39 with 60_exceptions.md R139: from a state of the block in a well-formed configuration, every step answers a next
state, which is such a state again: no index leaves its range, nothing is fatal. -/
def Obligations.StepNeverStops : Prop :=
  ∀ s : State, s.Inv → ∃ t, step s = .next t ∧ t.Inv

/-- Reset is a state of the block: `State.reset`, and reset in every well-formed configuration. -/
def Obligations.ResetMeetsTheInvariant : Prop :=
  State.reset.Inv ∧ ∀ p : Params, p.ok = true → (State.resetWith p).Inv

/-- 70_reset_and_hazards.md R154 with the table of 10_state.md R37. That `rst` keeps the configuration, the inputs still presented, the
issuer and the observation, which are not state of the block, is the model's reading (log 6). -/
def Obligations.ResetInputGivesTheResetValues : Prop :=
  ∀ (s : State) (rest : List PortInput), s.params.ok = true → s.port = .rst :: rest →
    let p := s.params
    let idleParser : Nat → Parser := fun cap => { state := .waitStart, len := 0#8, idx := 0#8, buf := List.replicate cap 0#8 }
    let emptyQueue : Nat → Queue := fun n => { slot := List.replicate n [], head := 0, tail := 0, drops := 0#32 }
    let emptyTable : Nat → JobTable := fun n =>
      { slots := List.replicate n { target := 0#8, ind := 0#8, next := 0#32, active := false }, cur := 0 }
    step s = .next {
      params := p, port := rest, issuer := s.issuer, obs := s.obs
      tick := 0#32, lastActivity := 0#32
      idleCleared := false, bcastPendSl := false, bcastPendPx := false, ledActive := false
      pollCur := 0
      roundAlive := 0#32, roundTrig := 0#32, alive := 0#32, trig := 0#32
      cfg := List.replicate p.maxCfg 0#8, cfgCount := 0
      oneshotAll := false, oneshotMask := 0#32, forceTrig := 0#32
      statusExt := 0#8
      stBuf := List.replicate p.statusBufCap 0#8, stLen := 0
      hp := idleParser p.hostRxCap, sp := idleParser p.slaveRxCap
      slq := emptyQueue p.slSlots, pxq := emptyQueue p.pxSlots
      slj := emptyTable p.slJobs, pxj := emptyTable p.pxJobs }

/-- 10_state.md R33: the triggered connectors are within the alive ones at reset, and every step keeps them so. -/
def Obligations.TriggeredStaysWithinAlive : Prop :=
  (∀ p : Params, (State.resetWith p).TrigWithinAlive) ∧
  ∀ s t : State, s.TrigWithinAlive → step s = .next t → t.TrigWithinAlive

/-- 10_state.md section 11 (R34): no step sets bit 0 of the four connector masks that replies and commits write. -/
def Obligations.BitZeroStaysClear : Prop :=
  ∀ s t : State, s.BitZeroClear → step s = .next t → t.BitZeroClear

/-- 10_state.md R35: the active jobs of each table are distinct at reset, and every step keeps them so. -/
def Obligations.ActiveJobsStayUnique : Prop :=
  (∀ p : Params, (State.resetWith p).JobsUnique) ∧
  ∀ s t : State, s.JobsUnique → step s = .next t → t.JobsUnique

/-- 00_scope.md section 4 (R7): no step changes the configuration. -/
def Obligations.ConfigurationNeverChanges : Prop :=
  ∀ s t : State, step s = .next t → t.params = s.params

/-- 00_scope.md R8, 30_encoding.md R63, 46_host_commands.md section 2 and R125: a configuration that breaks any of R8's conditions, one
whose `DISPATCH` gives some frame a record with a reserved code, with a selector outside 0..1, or with a code that R125's table does not
allow there, and one whose service codes are not distinct or whose domain holds `SC_STATUS_REPLY` (which R124 keeps out of it), is
refused. Two things here are the model's choice and no rule's. The rules say that a model refuses such a configuration and not when: that
every step does, whatever the state and the inputs, is log 15. That a table with a row for `SC_POLL`, for `SC_MAP_UPLOAD` or for a code
outside the domain is refused too, also where no frame reaches the row or its list is empty, comes from how the model holds `DISPATCH`:
log 13. -/
def Obligations.IllFormedConfigurationIsRefused : Prop :=
  ∀ (s : State), let p := s.params
    ((¬ (1 ≤ p.maxCfg ∧ 4 + p.maxCfg + p.trailer.length ≤ 255) ∨
     ¬ (1 ≤ p.idleTicks ∧ p.idleTicks ≤ 2 ^ 31 - 1) ∨
     ¬ (2 ≤ p.slSlots ∧ 2 ≤ p.pxSlots) ∨ ¬ (1 ≤ p.slJobs ∧ 1 ≤ p.pxJobs) ∨
     ¬ (1 ≤ p.hostRxCap ∧ p.hostRxCap ≤ 255 ∧ 3 ≤ p.slaveRxCap ∧ p.slaveRxCap ≤ 255) ∨
     p.trigSentinel = 0#8 ∨ ¬ [p.stIdle, p.stAlive, p.stTrig, 0x01#8].Nodup ∨
     ¬ (∀ a, 1 ≤ (p.slPoll a).length ∧ (p.slPoll a).length ≤ p.slFrameMax) ∨
     ¬ (∀ t i, 1 ≤ (p.slLed t i).length ∧ (p.slLed t i).length ≤ p.slFrameMax) ∨
     ¬ (1 ≤ p.slOffFrame.length ∧ p.slOffFrame.length ≤ p.slFrameMax) ∨
     ¬ (∀ t i, 1 ≤ (p.pxLed t i).length ∧ (p.pxLed t i).length ≤ 192) ∨
     ¬ (1 ≤ p.pxOffFrame.length ∧ p.pxOffFrame.length ≤ 192)) →
      step s = .refused .illFormedConfig) ∧
    (∀ (sc g a : Byte) (pl : Bytes) (es : List EffectRec) (e : EffectRec), p.dispatch sc g a pl = some es → e ∈ es →
      ((e.code = 0x00#8 ∨ 0x0C ≤ e.code.toNat) ∨
       (e.code ∈ [0x02#8, 0x03#8, 0x04#8, 0x05#8, 0x06#8] ∧ e.tbl ≠ 0#8 ∧ e.tbl ≠ 1#8) ∨
       (sc = p.scLedCtrl ∧ e.code ∉ [0x02#8, 0x03#8, 0x04#8, 0x05#8, 0x06#8]) ∨
       (sc = p.scOneshotLedReset ∧ e.code ∉ [0x07#8, 0x08#8, 0x03#8, 0x04#8, 0x05#8, 0x06#8]) ∨
       (sc = p.scLedReset ∧ e.code ∉ [0x03#8, 0x04#8, 0x05#8, 0x06#8]) ∨
       (sc = p.scRelaySet ∧ e.code ≠ 0x09#8) ∨ (sc = p.scBtnReset ∧ e.code ≠ 0x0A#8) ∨
       (sc = p.scPxMask ∧ e.code ≠ 0x0B#8)) →
      step s = .refused .illFormedConfig) ∧
    ((¬ [p.scPoll, p.scLedCtrl, p.scOneshotLedReset, p.scMapUpload, p.scLedReset, p.scRelaySet, p.scBtnReset, p.scPxMask,
          p.scStatusReply].Nodup ∨
      p.scStatusReply ∈ p.furtherCodes ∨
      ∃ r ∈ p.dispatchRows, ¬ p.InDom r.sc ∨ r.sc = p.scPoll ∨ r.sc = p.scMapUpload) →
      step s = .refused .illFormedConfig)

/-- 00_scope.md section 3 (R6): the inputs are accepted one at a time in the order presented, so each agent's words in its own order. -/
def Obligations.InputsAreTakenInOrder : Prop :=
  ∀ (s t : State) (k : Nat), Host.Core.run core k s = .next t →
    t.port = s.port.drop k ∧ ∀ a, ∃ l, wordsOf a s.port = l ++ wordsOf a t.port

/-- 60_exceptions.md section 4 (R149): only the byte that completes a host frame restarts the idle watchdog, and it does so with the
current `tick`. -/
def Obligations.OnlyHostFramesRestartTheWatchdog : Prop :=
  ∀ (i : Instr) (s t : State), portTransaction i = true → exec i s = .next t →
    (i = .hrx 0x16#8 ∧ s.hp.state = .waitEnd → t.lastActivity = s.tick) ∧
    (¬ (i = .hrx 0x16#8 ∧ s.hp.state = .waitEnd) → t.lastActivity = s.lastActivity)

/-- 60_exceptions.md R147: each piece of state is written only by the port transactions R147's table gives it. -/
def Obligations.StateIsWrittenByItsOwnersOnly : Prop :=
  ∀ (i : Instr) (s t : State), portTransaction i = true → exec i s = .next t →
    let hrx := ∃ b, i = .hrx b
    let srx := ∃ b, i = .srx b
    let btn := ∃ b, i = .btn b
    let jobs : JobTable → List (Byte × Byte × Bool) := fun j => j.slots.map (fun k => (k.target, k.ind, k.active))
    let nexts : JobTable → List U32 := fun j => j.slots.map (fun k => k.next)
    ((t.tick = s.tick ∧ t.idleCleared = s.idleCleared ∧ t.ledActive = s.ledActive ∧ t.pollCur = s.pollCur) ∨ i = .tick) ∧
    (t.lastActivity = s.lastActivity ∨ hrx) ∧
    ((t.bcastPendSl = s.bcastPendSl ∧ t.bcastPendPx = s.bcastPendPx) ∨ i = .tick ∨ hrx) ∧
    ((t.roundAlive = s.roundAlive ∧ t.roundTrig = s.roundTrig) ∨ srx ∨ i = .tick) ∧
    ((t.alive = s.alive ∧ t.trig = s.trig) ∨ i = .tick ∨ srx) ∧
    ((t.cfg = s.cfg ∧ t.cfgCount = s.cfgCount) ∨ hrx) ∧
    ((t.oneshotAll = s.oneshotAll ∧ t.oneshotMask = s.oneshotMask ∧ t.forceTrig = s.forceTrig) ∨ hrx ∨ btn) ∧
    (t.statusExt = s.statusExt ∨ btn ∨ hrx) ∧
    (t.stBuf = s.stBuf ∨ hrx ∨ btn) ∧ (t.stLen = s.stLen ∨ hrx ∨ btn ∨ i = .stSent) ∧
    (t.hp = s.hp ∨ hrx) ∧ (t.sp = s.sp ∨ srx) ∧
    ((t.slq.slot = s.slq.slot ∧ t.slq.head = s.slq.head ∧ t.slq.drops = s.slq.drops) ∨ i = .tick) ∧
    ((t.pxq.slot = s.pxq.slot ∧ t.pxq.head = s.pxq.head ∧ t.pxq.drops = s.pxq.drops) ∨ i = .tick) ∧
    (t.slq.tail = s.slq.tail ∨ i = .slqPop) ∧ (t.pxq.tail = s.pxq.tail ∨ i = .pxqPop) ∧
    ((jobs t.slj = jobs s.slj ∧ jobs t.pxj = jobs s.pxj) ∨ hrx) ∧
    ((t.slj.cur = s.slj.cur ∧ t.pxj.cur = s.pxj.cur) ∨ i = .tick) ∧
    ((nexts t.slj = nexts s.slj ∧ nexts t.pxj = nexts s.pxj) ∨ i = .tick ∨ hrx)
end

