-- ==== Sys2Proof/Laws/State.lean ====
section
/-!
SUPPORT. What each named update of the state leaves in each field, so that no later proof unfolds an update.
-/

namespace Sys2Proof.Machine

/-! ### `emit` -/

@[simp] theorem emit_params (e : Event) (s : State) : (emit e s).params = s.params := rfl
@[simp] theorem emit_port (e : Event) (s : State) : (emit e s).port = s.port := rfl
@[simp] theorem emit_issuer (e : Event) (s : State) : (emit e s).issuer = s.issuer := rfl
@[simp] theorem emit_obs (e : Event) (s : State) : (emit e s).obs = s.obs ++ [.event e] := rfl
@[simp] theorem emit_tick (e : Event) (s : State) : (emit e s).tick = s.tick := rfl
@[simp] theorem emit_lastActivity (e : Event) (s : State) : (emit e s).lastActivity = s.lastActivity := rfl
@[simp] theorem emit_idleCleared (e : Event) (s : State) : (emit e s).idleCleared = s.idleCleared := rfl
@[simp] theorem emit_bcastPendSl (e : Event) (s : State) : (emit e s).bcastPendSl = s.bcastPendSl := rfl
@[simp] theorem emit_bcastPendPx (e : Event) (s : State) : (emit e s).bcastPendPx = s.bcastPendPx := rfl
@[simp] theorem emit_ledActive (e : Event) (s : State) : (emit e s).ledActive = s.ledActive := rfl
@[simp] theorem emit_pollCur (e : Event) (s : State) : (emit e s).pollCur = s.pollCur := rfl
@[simp] theorem emit_roundAlive (e : Event) (s : State) : (emit e s).roundAlive = s.roundAlive := rfl
@[simp] theorem emit_roundTrig (e : Event) (s : State) : (emit e s).roundTrig = s.roundTrig := rfl
@[simp] theorem emit_alive (e : Event) (s : State) : (emit e s).alive = s.alive := rfl
@[simp] theorem emit_trig (e : Event) (s : State) : (emit e s).trig = s.trig := rfl
@[simp] theorem emit_cfg (e : Event) (s : State) : (emit e s).cfg = s.cfg := rfl
@[simp] theorem emit_cfgCount (e : Event) (s : State) : (emit e s).cfgCount = s.cfgCount := rfl
@[simp] theorem emit_oneshotAll (e : Event) (s : State) : (emit e s).oneshotAll = s.oneshotAll := rfl
@[simp] theorem emit_oneshotMask (e : Event) (s : State) : (emit e s).oneshotMask = s.oneshotMask := rfl
@[simp] theorem emit_forceTrig (e : Event) (s : State) : (emit e s).forceTrig = s.forceTrig := rfl
@[simp] theorem emit_statusExt (e : Event) (s : State) : (emit e s).statusExt = s.statusExt := rfl
@[simp] theorem emit_stBuf (e : Event) (s : State) : (emit e s).stBuf = s.stBuf := rfl
@[simp] theorem emit_stLen (e : Event) (s : State) : (emit e s).stLen = s.stLen := rfl
@[simp] theorem emit_hp (e : Event) (s : State) : (emit e s).hp = s.hp := rfl
@[simp] theorem emit_sp (e : Event) (s : State) : (emit e s).sp = s.sp := rfl
@[simp] theorem emit_slq (e : Event) (s : State) : (emit e s).slq = s.slq := rfl
@[simp] theorem emit_pxq (e : Event) (s : State) : (emit e s).pxq = s.pxq := rfl
@[simp] theorem emit_slj (e : Event) (s : State) : (emit e s).slj = s.slj := rfl
@[simp] theorem emit_pxj (e : Event) (s : State) : (emit e s).pxj = s.pxj := rfl

/-! ### `respond` -/

@[simp] theorem respond_params (r : Response) (s : State) : (respond r s).params = s.params := rfl
@[simp] theorem respond_port (r : Response) (s : State) : (respond r s).port = s.port := rfl
@[simp] theorem respond_issuer (r : Response) (s : State) : (respond r s).issuer = s.issuer := rfl
@[simp] theorem respond_obs (r : Response) (s : State) : (respond r s).obs = s.obs ++ [.resp s.issuer r] := rfl
@[simp] theorem respond_tick (r : Response) (s : State) : (respond r s).tick = s.tick := rfl
@[simp] theorem respond_lastActivity (r : Response) (s : State) : (respond r s).lastActivity = s.lastActivity := rfl
@[simp] theorem respond_idleCleared (r : Response) (s : State) : (respond r s).idleCleared = s.idleCleared := rfl
@[simp] theorem respond_bcastPendSl (r : Response) (s : State) : (respond r s).bcastPendSl = s.bcastPendSl := rfl
@[simp] theorem respond_bcastPendPx (r : Response) (s : State) : (respond r s).bcastPendPx = s.bcastPendPx := rfl
@[simp] theorem respond_ledActive (r : Response) (s : State) : (respond r s).ledActive = s.ledActive := rfl
@[simp] theorem respond_pollCur (r : Response) (s : State) : (respond r s).pollCur = s.pollCur := rfl
@[simp] theorem respond_roundAlive (r : Response) (s : State) : (respond r s).roundAlive = s.roundAlive := rfl
@[simp] theorem respond_roundTrig (r : Response) (s : State) : (respond r s).roundTrig = s.roundTrig := rfl
@[simp] theorem respond_alive (r : Response) (s : State) : (respond r s).alive = s.alive := rfl
@[simp] theorem respond_trig (r : Response) (s : State) : (respond r s).trig = s.trig := rfl
@[simp] theorem respond_cfg (r : Response) (s : State) : (respond r s).cfg = s.cfg := rfl
@[simp] theorem respond_cfgCount (r : Response) (s : State) : (respond r s).cfgCount = s.cfgCount := rfl
@[simp] theorem respond_oneshotAll (r : Response) (s : State) : (respond r s).oneshotAll = s.oneshotAll := rfl
@[simp] theorem respond_oneshotMask (r : Response) (s : State) : (respond r s).oneshotMask = s.oneshotMask := rfl
@[simp] theorem respond_forceTrig (r : Response) (s : State) : (respond r s).forceTrig = s.forceTrig := rfl
@[simp] theorem respond_statusExt (r : Response) (s : State) : (respond r s).statusExt = s.statusExt := rfl
@[simp] theorem respond_stBuf (r : Response) (s : State) : (respond r s).stBuf = s.stBuf := rfl
@[simp] theorem respond_stLen (r : Response) (s : State) : (respond r s).stLen = s.stLen := rfl
@[simp] theorem respond_hp (r : Response) (s : State) : (respond r s).hp = s.hp := rfl
@[simp] theorem respond_sp (r : Response) (s : State) : (respond r s).sp = s.sp := rfl
@[simp] theorem respond_slq (r : Response) (s : State) : (respond r s).slq = s.slq := rfl
@[simp] theorem respond_pxq (r : Response) (s : State) : (respond r s).pxq = s.pxq := rfl
@[simp] theorem respond_slj (r : Response) (s : State) : (respond r s).slj = s.slj := rfl
@[simp] theorem respond_pxj (r : Response) (s : State) : (respond r s).pxj = s.pxj := rfl

/-! ### `accept` -/

@[simp] theorem accept_params (a : Agent) (rest : List PortInput) (s : State) : (accept a rest s).params = s.params := rfl
@[simp] theorem accept_port (a : Agent) (rest : List PortInput) (s : State) : (accept a rest s).port = rest := rfl
@[simp] theorem accept_issuer (a : Agent) (rest : List PortInput) (s : State) : (accept a rest s).issuer = a := rfl
@[simp] theorem accept_obs (a : Agent) (rest : List PortInput) (s : State) : (accept a rest s).obs = s.obs := rfl
@[simp] theorem accept_tick (a : Agent) (rest : List PortInput) (s : State) : (accept a rest s).tick = s.tick := rfl
@[simp] theorem accept_lastActivity (a : Agent) (rest : List PortInput) (s : State) : (accept a rest s).lastActivity = s.lastActivity := rfl
@[simp] theorem accept_idleCleared (a : Agent) (rest : List PortInput) (s : State) : (accept a rest s).idleCleared = s.idleCleared := rfl
@[simp] theorem accept_bcastPendSl (a : Agent) (rest : List PortInput) (s : State) : (accept a rest s).bcastPendSl = s.bcastPendSl := rfl
@[simp] theorem accept_bcastPendPx (a : Agent) (rest : List PortInput) (s : State) : (accept a rest s).bcastPendPx = s.bcastPendPx := rfl
@[simp] theorem accept_ledActive (a : Agent) (rest : List PortInput) (s : State) : (accept a rest s).ledActive = s.ledActive := rfl
@[simp] theorem accept_pollCur (a : Agent) (rest : List PortInput) (s : State) : (accept a rest s).pollCur = s.pollCur := rfl
@[simp] theorem accept_roundAlive (a : Agent) (rest : List PortInput) (s : State) : (accept a rest s).roundAlive = s.roundAlive := rfl
@[simp] theorem accept_roundTrig (a : Agent) (rest : List PortInput) (s : State) : (accept a rest s).roundTrig = s.roundTrig := rfl
@[simp] theorem accept_alive (a : Agent) (rest : List PortInput) (s : State) : (accept a rest s).alive = s.alive := rfl
@[simp] theorem accept_trig (a : Agent) (rest : List PortInput) (s : State) : (accept a rest s).trig = s.trig := rfl
@[simp] theorem accept_cfg (a : Agent) (rest : List PortInput) (s : State) : (accept a rest s).cfg = s.cfg := rfl
@[simp] theorem accept_cfgCount (a : Agent) (rest : List PortInput) (s : State) : (accept a rest s).cfgCount = s.cfgCount := rfl
@[simp] theorem accept_oneshotAll (a : Agent) (rest : List PortInput) (s : State) : (accept a rest s).oneshotAll = s.oneshotAll := rfl
@[simp] theorem accept_oneshotMask (a : Agent) (rest : List PortInput) (s : State) : (accept a rest s).oneshotMask = s.oneshotMask := rfl
@[simp] theorem accept_forceTrig (a : Agent) (rest : List PortInput) (s : State) : (accept a rest s).forceTrig = s.forceTrig := rfl
@[simp] theorem accept_statusExt (a : Agent) (rest : List PortInput) (s : State) : (accept a rest s).statusExt = s.statusExt := rfl
@[simp] theorem accept_stBuf (a : Agent) (rest : List PortInput) (s : State) : (accept a rest s).stBuf = s.stBuf := rfl
@[simp] theorem accept_stLen (a : Agent) (rest : List PortInput) (s : State) : (accept a rest s).stLen = s.stLen := rfl
@[simp] theorem accept_hp (a : Agent) (rest : List PortInput) (s : State) : (accept a rest s).hp = s.hp := rfl
@[simp] theorem accept_sp (a : Agent) (rest : List PortInput) (s : State) : (accept a rest s).sp = s.sp := rfl
@[simp] theorem accept_slq (a : Agent) (rest : List PortInput) (s : State) : (accept a rest s).slq = s.slq := rfl
@[simp] theorem accept_pxq (a : Agent) (rest : List PortInput) (s : State) : (accept a rest s).pxq = s.pxq := rfl
@[simp] theorem accept_slj (a : Agent) (rest : List PortInput) (s : State) : (accept a rest s).slj = s.slj := rfl
@[simp] theorem accept_pxj (a : Agent) (rest : List PortInput) (s : State) : (accept a rest s).pxj = s.pxj := rfl

/-! ### `noteActivity` -/

@[simp] theorem noteActivity_params (s : State) : (noteActivity s).params = s.params := rfl
@[simp] theorem noteActivity_port (s : State) : (noteActivity s).port = s.port := rfl
@[simp] theorem noteActivity_issuer (s : State) : (noteActivity s).issuer = s.issuer := rfl
@[simp] theorem noteActivity_obs (s : State) : (noteActivity s).obs = s.obs := rfl
@[simp] theorem noteActivity_tick (s : State) : (noteActivity s).tick = s.tick := rfl
@[simp] theorem noteActivity_lastActivity (s : State) : (noteActivity s).lastActivity = s.tick := rfl
@[simp] theorem noteActivity_idleCleared (s : State) : (noteActivity s).idleCleared = s.idleCleared := rfl
@[simp] theorem noteActivity_bcastPendSl (s : State) : (noteActivity s).bcastPendSl = s.bcastPendSl := rfl
@[simp] theorem noteActivity_bcastPendPx (s : State) : (noteActivity s).bcastPendPx = s.bcastPendPx := rfl
@[simp] theorem noteActivity_ledActive (s : State) : (noteActivity s).ledActive = s.ledActive := rfl
@[simp] theorem noteActivity_pollCur (s : State) : (noteActivity s).pollCur = s.pollCur := rfl
@[simp] theorem noteActivity_roundAlive (s : State) : (noteActivity s).roundAlive = s.roundAlive := rfl
@[simp] theorem noteActivity_roundTrig (s : State) : (noteActivity s).roundTrig = s.roundTrig := rfl
@[simp] theorem noteActivity_alive (s : State) : (noteActivity s).alive = s.alive := rfl
@[simp] theorem noteActivity_trig (s : State) : (noteActivity s).trig = s.trig := rfl
@[simp] theorem noteActivity_cfg (s : State) : (noteActivity s).cfg = s.cfg := rfl
@[simp] theorem noteActivity_cfgCount (s : State) : (noteActivity s).cfgCount = s.cfgCount := rfl
@[simp] theorem noteActivity_oneshotAll (s : State) : (noteActivity s).oneshotAll = s.oneshotAll := rfl
@[simp] theorem noteActivity_oneshotMask (s : State) : (noteActivity s).oneshotMask = s.oneshotMask := rfl
@[simp] theorem noteActivity_forceTrig (s : State) : (noteActivity s).forceTrig = s.forceTrig := rfl
@[simp] theorem noteActivity_statusExt (s : State) : (noteActivity s).statusExt = s.statusExt := rfl
@[simp] theorem noteActivity_stBuf (s : State) : (noteActivity s).stBuf = s.stBuf := rfl
@[simp] theorem noteActivity_stLen (s : State) : (noteActivity s).stLen = s.stLen := rfl
@[simp] theorem noteActivity_hp (s : State) : (noteActivity s).hp = s.hp := rfl
@[simp] theorem noteActivity_sp (s : State) : (noteActivity s).sp = s.sp := rfl
@[simp] theorem noteActivity_slq (s : State) : (noteActivity s).slq = s.slq := rfl
@[simp] theorem noteActivity_pxq (s : State) : (noteActivity s).pxq = s.pxq := rfl
@[simp] theorem noteActivity_slj (s : State) : (noteActivity s).slj = s.slj := rfl
@[simp] theorem noteActivity_pxj (s : State) : (noteActivity s).pxj = s.pxj := rfl

/-! ### `tickAdvance` -/

@[simp] theorem tickAdvance_params (s : State) : (tickAdvance s).params = s.params := rfl
@[simp] theorem tickAdvance_port (s : State) : (tickAdvance s).port = s.port := rfl
@[simp] theorem tickAdvance_issuer (s : State) : (tickAdvance s).issuer = s.issuer := rfl
@[simp] theorem tickAdvance_obs (s : State) : (tickAdvance s).obs = s.obs := rfl
@[simp] theorem tickAdvance_tick (s : State) : (tickAdvance s).tick = s.tick + 1#32 := rfl
@[simp] theorem tickAdvance_lastActivity (s : State) : (tickAdvance s).lastActivity = s.lastActivity := rfl
@[simp] theorem tickAdvance_idleCleared (s : State) : (tickAdvance s).idleCleared = s.idleCleared := rfl
@[simp] theorem tickAdvance_bcastPendSl (s : State) : (tickAdvance s).bcastPendSl = s.bcastPendSl := rfl
@[simp] theorem tickAdvance_bcastPendPx (s : State) : (tickAdvance s).bcastPendPx = s.bcastPendPx := rfl
@[simp] theorem tickAdvance_ledActive (s : State) : (tickAdvance s).ledActive = s.ledActive := rfl
@[simp] theorem tickAdvance_pollCur (s : State) : (tickAdvance s).pollCur = s.pollCur := rfl
@[simp] theorem tickAdvance_roundAlive (s : State) : (tickAdvance s).roundAlive = s.roundAlive := rfl
@[simp] theorem tickAdvance_roundTrig (s : State) : (tickAdvance s).roundTrig = s.roundTrig := rfl
@[simp] theorem tickAdvance_alive (s : State) : (tickAdvance s).alive = s.alive := rfl
@[simp] theorem tickAdvance_trig (s : State) : (tickAdvance s).trig = s.trig := rfl
@[simp] theorem tickAdvance_cfg (s : State) : (tickAdvance s).cfg = s.cfg := rfl
@[simp] theorem tickAdvance_cfgCount (s : State) : (tickAdvance s).cfgCount = s.cfgCount := rfl
@[simp] theorem tickAdvance_oneshotAll (s : State) : (tickAdvance s).oneshotAll = s.oneshotAll := rfl
@[simp] theorem tickAdvance_oneshotMask (s : State) : (tickAdvance s).oneshotMask = s.oneshotMask := rfl
@[simp] theorem tickAdvance_forceTrig (s : State) : (tickAdvance s).forceTrig = s.forceTrig := rfl
@[simp] theorem tickAdvance_statusExt (s : State) : (tickAdvance s).statusExt = s.statusExt := rfl
@[simp] theorem tickAdvance_stBuf (s : State) : (tickAdvance s).stBuf = s.stBuf := rfl
@[simp] theorem tickAdvance_stLen (s : State) : (tickAdvance s).stLen = s.stLen := rfl
@[simp] theorem tickAdvance_hp (s : State) : (tickAdvance s).hp = s.hp := rfl
@[simp] theorem tickAdvance_sp (s : State) : (tickAdvance s).sp = s.sp := rfl
@[simp] theorem tickAdvance_slq (s : State) : (tickAdvance s).slq = s.slq := rfl
@[simp] theorem tickAdvance_pxq (s : State) : (tickAdvance s).pxq = s.pxq := rfl
@[simp] theorem tickAdvance_slj (s : State) : (tickAdvance s).slj = s.slj := rfl
@[simp] theorem tickAdvance_pxj (s : State) : (tickAdvance s).pxj = s.pxj := rfl

/-! ### `commit` -/

@[simp] theorem commit_params (s : State) : (commit s).params = s.params := rfl
@[simp] theorem commit_port (s : State) : (commit s).port = s.port := rfl
@[simp] theorem commit_issuer (s : State) : (commit s).issuer = s.issuer := rfl
@[simp] theorem commit_obs (s : State) : (commit s).obs = s.obs := rfl
@[simp] theorem commit_tick (s : State) : (commit s).tick = s.tick := rfl
@[simp] theorem commit_lastActivity (s : State) : (commit s).lastActivity = s.lastActivity := rfl
@[simp] theorem commit_idleCleared (s : State) : (commit s).idleCleared = s.idleCleared := rfl
@[simp] theorem commit_bcastPendSl (s : State) : (commit s).bcastPendSl = s.bcastPendSl := rfl
@[simp] theorem commit_bcastPendPx (s : State) : (commit s).bcastPendPx = s.bcastPendPx := rfl
@[simp] theorem commit_ledActive (s : State) : (commit s).ledActive = s.ledActive := rfl
@[simp] theorem commit_pollCur (s : State) : (commit s).pollCur = s.pollCur := rfl
@[simp] theorem commit_roundAlive (s : State) : (commit s).roundAlive = 0#32 := rfl
@[simp] theorem commit_roundTrig (s : State) : (commit s).roundTrig = 0#32 := rfl
@[simp] theorem commit_alive (s : State) : (commit s).alive = s.roundAlive := rfl
@[simp] theorem commit_trig (s : State) : (commit s).trig = s.roundTrig &&& s.roundAlive := rfl
@[simp] theorem commit_cfg (s : State) : (commit s).cfg = s.cfg := rfl
@[simp] theorem commit_cfgCount (s : State) : (commit s).cfgCount = s.cfgCount := rfl
@[simp] theorem commit_oneshotAll (s : State) : (commit s).oneshotAll = s.oneshotAll := rfl
@[simp] theorem commit_oneshotMask (s : State) : (commit s).oneshotMask = s.oneshotMask := rfl
@[simp] theorem commit_forceTrig (s : State) : (commit s).forceTrig = s.forceTrig := rfl
@[simp] theorem commit_statusExt (s : State) : (commit s).statusExt = s.statusExt := rfl
@[simp] theorem commit_stBuf (s : State) : (commit s).stBuf = s.stBuf := rfl
@[simp] theorem commit_stLen (s : State) : (commit s).stLen = s.stLen := rfl
@[simp] theorem commit_hp (s : State) : (commit s).hp = s.hp := rfl
@[simp] theorem commit_sp (s : State) : (commit s).sp = s.sp := rfl
@[simp] theorem commit_slq (s : State) : (commit s).slq = s.slq := rfl
@[simp] theorem commit_pxq (s : State) : (commit s).pxq = s.pxq := rfl
@[simp] theorem commit_slj (s : State) : (commit s).slj = s.slj := rfl
@[simp] theorem commit_pxj (s : State) : (commit s).pxj = s.pxj := rfl

end Sys2Proof.Machine
end

