-- ==== Sys2Proof/Laws/Ops.lean ====
section
/-!
SUPPORT. One lemma for each shared operation that says everything it can answer, for citing instead of unfolding: sequencing, array
accesses, output, ring buffers, job tables, the build, the parsers.
-/

namespace Sys2Proof.Machine

variable {α β : Type}

/-! ## Sequencing -/

@[simp] theorem andThen_next (a : α) (k : α → Res β) : Res.andThen (.next a) k = k a := rfl

@[simp] theorem andThen_fault (f : Fault) (k : α → Res β) : Res.andThen (.fault f) k = .fault f := rfl

@[simp] theorem andThen_refused (x : Refusal) (k : α → Res β) : Res.andThen (.refused x) k = .refused x := rfl

theorem andThen_eq_next {r : Res α} {k : α → Res β} {b : β} :
    r.andThen k = .next b ↔ ∃ a, r = .next a ∧ k a = .next b := by
  cases r <;> simp [Res.andThen]

/-! ## Internal arrays -/

theorem memRead_eq_next {n : ArrayName} {arr : List α} {i : Nat} {v : α} :
    memRead n arr i = .next v ↔ arr[i]? = some v := by
  unfold memRead
  cases h : arr[i]? <;> simp

/-- In range, `MemRead` answers the element. -/
theorem memRead_of_lt {n : ArrayName} {arr : List α} {i : Nat} (h : i < arr.length) : memRead n arr i = .next arr[i] :=
  memRead_eq_next.mpr (List.getElem?_eq_getElem h)

/-- Out of range, `MemRead` faults (20_memory.md R39). -/
theorem memRead_of_le {n : ArrayName} {arr : List α} {i : Nat} (h : arr.length ≤ i) :
    memRead n arr i = .fault (.indexOutOfRange n i) := by
  simp [memRead, List.getElem?_eq_none h]

theorem memWrite_eq_next {n : ArrayName} {arr out : List α} {i : Nat} {v : α} :
    memWrite n arr i v = .next out ↔ i < arr.length ∧ out = arr.set i v := by
  unfold memWrite
  split <;> simp_all [eq_comm]

/-- In range, `MemWrite` answers the array with the element set. -/
theorem memWrite_of_lt {n : ArrayName} {arr : List α} {i : Nat} {v : α} (h : i < arr.length) :
    memWrite n arr i v = .next (arr.set i v) := by simp [memWrite, h]

/-- Out of range, `MemWrite` faults (20_memory.md R39). -/
theorem memWrite_of_le {n : ArrayName} {arr : List α} {i : Nat} {v : α} (h : arr.length ≤ i) :
    memWrite n arr i v = .fault (.indexOutOfRange n i) := by simp [memWrite, Nat.not_lt.mpr h]

/-- `MemWrite` keeps the size of the array: the arrays' form. -/
theorem memWrite_length {n : ArrayName} {arr out : List α} {i : Nat} {v : α} (h : memWrite n arr i v = .next out) :
    out.length = arr.length := by
  rw [(memWrite_eq_next.mp h).2, List.length_set]

/-- A read after a write to the same place gives the value written. -/
theorem memRead_memWrite_same {n : ArrayName} {arr out : List α} {i : Nat} {v : α} (h : memWrite n arr i v = .next out) :
    memRead n out i = .next v := by
  obtain ⟨hi, rfl⟩ := memWrite_eq_next.mp h
  simp [memRead, hi]

/-- A write leaves every other place alone. -/
theorem memRead_memWrite_other {n : ArrayName} {arr out : List α} {i j : Nat} {v : α} (h : memWrite n arr i v = .next out)
    (hij : j ≠ i) : memRead n out j = memRead n arr j := by
  obtain ⟨-, rfl⟩ := memWrite_eq_next.mp h
  simp [memRead, List.getElem?_set_ne hij.symm]

theorem memReadFirst_eq_next {n : ArrayName} {arr out : List α} {k : Nat} :
    memReadFirst n arr k = .next out ↔ k ≤ arr.length ∧ out = arr.take k := by
  unfold memReadFirst
  split <;> simp_all [eq_comm]

theorem memReadFirst_of_le {n : ArrayName} {arr : List α} {k : Nat} (h : k ≤ arr.length) :
    memReadFirst n arr k = .next (arr.take k) := by simp [memReadFirst, h]

/-- `memReadFirst` answers what reading the first `k` elements one by one answers. -/
theorem memReadFirst_reads {n : ArrayName} {arr out : List α} {k : Nat} (h : memReadFirst n arr k = .next out) {i : Nat} (hi : i < k) :
    memRead n out i = memRead n arr i := by
  obtain ⟨-, rfl⟩ := memReadFirst_eq_next.mp h
  simp [memRead, hi]

theorem memWriteFirst_eq_next {n : ArrayName} {arr vs out : List α} :
    memWriteFirst n arr vs = .next out ↔ vs.length ≤ arr.length ∧ out = vs ++ arr.drop vs.length := by
  unfold memWriteFirst
  split <;> simp_all [eq_comm]

theorem memWriteFirst_of_le {n : ArrayName} {arr vs : List α} (h : vs.length ≤ arr.length) :
    memWriteFirst n arr vs = .next (vs ++ arr.drop vs.length) := by simp [memWriteFirst, h]

/-- `memWriteFirst` keeps the size of the array. -/
theorem memWriteFirst_length {n : ArrayName} {arr vs out : List α} (h : memWriteFirst n arr vs = .next out) :
    out.length = arr.length := by
  obtain ⟨hl, rfl⟩ := memWriteFirst_eq_next.mp h
  simp
  omega

/-- After `memWriteFirst`, the first elements read as written. -/
theorem memRead_memWriteFirst_lt {n : ArrayName} {arr vs out : List α} (h : memWriteFirst n arr vs = .next out) {i : Nat}
    (hi : i < vs.length) : memRead n out i = .next vs[i] := by
  obtain ⟨-, rfl⟩ := memWriteFirst_eq_next.mp h
  simp [memRead, List.getElem?_append_left hi, hi]

/-- After `memWriteFirst`, every other element reads as before. -/
theorem memRead_memWriteFirst_ge {n : ArrayName} {arr vs out : List α} (h : memWriteFirst n arr vs = .next out) {i : Nat}
    (hi : vs.length ≤ i) : memRead n out i = memRead n arr i := by
  obtain ⟨hl, rfl⟩ := memWriteFirst_eq_next.mp h
  simp [memRead, List.getElem?_append_right hi, List.getElem?_drop, Nat.add_sub_cancel' hi]

/-! ## Ring buffers -/

theorem push_eq_next {name : ArrayName} {n : Nat} {q : Queue} {f : Bytes} {r : Queue × Bool} :
    push name n q f = .next r ↔
      (q.isFull n = true ∧ r = ({ q with drops := q.drops + 1#32 }, false)) ∨
      (q.isFull n = false ∧ q.head < q.slot.length ∧
        r = ({ q with slot := q.slot.set q.head f, head := nextIndex q.head n }, true)) := by
  unfold push
  cases h : q.isFull n
  · simp only [Bool.false_eq_true, if_false, andThen_eq_next, memWrite_eq_next]
    constructor
    · rintro ⟨a, ⟨hl, rfl⟩, h2⟩
      exact .inr ⟨trivial, hl, (Host.Outcome.next.inj h2).symm⟩
    · rintro (⟨h1, -⟩ | ⟨-, hl, rfl⟩)
      · exact absurd h1 (by simp)
      · exact ⟨_, ⟨hl, rfl⟩, rfl⟩
  · simp [eq_comm]

/-- A push whose head is in range answers. -/
theorem push_of_lt {name : ArrayName} {n : Nat} {q : Queue} {f : Bytes} (h : q.head < q.slot.length) :
    push name n q f = .next
      (if q.isFull n then ({ q with drops := q.drops + 1#32 }, false)
       else ({ q with slot := q.slot.set q.head f, head := nextIndex q.head n }, true)) := by
  unfold push
  split <;> simp_all [memWrite_of_lt h]

theorem pop_eq_next {name : ArrayName} {n : Nat} {q : Queue} {r : Queue × Option Bytes} :
    pop name n q = .next r ↔
      (q.isEmpty = true ∧ r = (q, none)) ∨
      (q.isEmpty = false ∧ ∃ f, q.slot[q.tail]? = some f ∧ r = ({ q with tail := nextIndex q.tail n }, some f)) := by
  unfold pop
  cases h : q.isEmpty
  · simp only [Bool.false_eq_true, if_false, andThen_eq_next, memRead_eq_next]
    constructor
    · rintro ⟨a, h1, h2⟩
      exact .inr ⟨trivial, a, h1, (Host.Outcome.next.inj h2).symm⟩
    · rintro (⟨h1, -⟩ | ⟨-, a, h1, rfl⟩)
      · exact absurd h1 (by simp)
      · exact ⟨a, h1, rfl⟩
  · simp [eq_comm]

@[simp] theorem unread_length (q : Queue) (n : Nat) : (q.unread n).length = q.count n := by simp [Queue.unread]

/-- No frame pushed: the queue as it was. -/
theorem tookFrames_nil (n : Nat) (q : Queue) : q.TookFrames n [] q := by simp [Queue.TookFrames]

/-- Frames pushed after frames pushed are their sequence pushed. -/
theorem tookFrames_append {n : Nat} {q q₁ q₂ : Queue} {fs gs : List Bytes} (h₁ : q.TookFrames n fs q₁) (h₂ : q₁.TookFrames n gs q₂) :
    q.TookFrames n (fs ++ gs) q₂ := by
  obtain ⟨u₁, d₁, t₁⟩ := h₁
  obtain ⟨u₂, d₂, t₂⟩ := h₂
  have hc : q₁.count n = q.count n + min (n - 1 - q.count n) fs.length := by simpa using congrArg List.length u₁
  have hr : n - 1 - q₁.count n = n - 1 - q.count n - fs.length := by omega
  refine ⟨by rw [u₂, u₁, hr, List.append_assoc, List.take_append], ?_, t₂.trans t₁⟩
  rw [d₂, d₁, hr, BitVec.add_assoc, ← BitVec.ofNat_add, List.length_append]
  congr 2
  omega

/-- `pushSl` changes `slq` only, by a push. -/
theorem pushSl_eq_next {f : Bytes} {s t : State} :
    pushSl f s = .next t ↔ ∃ r, push .slqSlot s.params.slSlots s.slq f = .next r ∧ t = { s with slq := r.1 } := by
  simp only [pushSl, andThen_eq_next, Host.Outcome.next.injEq]
  exact exists_congr fun r => and_congr_right fun _ => eq_comm

/-- `pushPx` changes `pxq` only, by a push. -/
theorem pushPx_eq_next {f : Bytes} {s t : State} :
    pushPx f s = .next t ↔ ∃ r, push .pxqSlot s.params.pxSlots s.pxq f = .next r ∧ t = { s with pxq := r.1 } := by
  simp only [pushPx, andThen_eq_next, Host.Outcome.next.injEq]
  exact exists_congr fun r => and_congr_right fun _ => eq_comm

/-! ## Job tables -/

/-- A job operation changes the selected table only, or is refused. -/
theorem onTable_eq_next {tbl : Byte} {op : JobTable → JobTable} {s t : State} :
    onTable tbl op s = .next t ↔
      (tbl = 0#8 ∧ t = { s with slj := op s.slj }) ∨ (tbl = 1#8 ∧ t = { s with pxj := op s.pxj }) := by
  unfold onTable
  split
  · subst_vars
    simp [eq_comm]
  · split
    · subst_vars
      simp [eq_comm]
    · simp_all

@[simp] theorem deactivate_cur (j : JobTable) (hit : Job → Bool) : (j.deactivate hit).cur = j.cur := rfl

@[simp] theorem deactivate_length (j : JobTable) (hit : Job → Bool) : (j.deactivate hit).slots.length = j.slots.length := by
  simp [JobTable.deactivate]

/-- Starting a job either changes nothing or fills one inactive slot, when no slot holds the job actively. -/
theorem start_cases (j : JobTable) (t i : Byte) (tick : U32) :
    j.start t i tick = j ∨
      (j.slots.any (Job.isActiveJob t i) = false ∧ ∃ k, j.slots.findIdx? (fun x => !x.active) = some k ∧
        j.start t i tick = { j with slots := j.slots.set k { target := t, ind := i, next := tick, active := true } }) := by
  unfold JobTable.start
  split
  · exact .inl rfl
  · split
    · rename_i h k hk
      exact .inr ⟨Bool.eq_false_iff.mpr ‹¬_›, k, hk, rfl⟩
    · exact .inl rfl

@[simp] theorem start_cur (j : JobTable) (t i : Byte) (tick : U32) : (j.start t i tick).cur = j.cur := by
  rcases start_cases j t i tick with h | ⟨-, k, -, h⟩ <;> rw [h]

@[simp] theorem start_length (j : JobTable) (t i : Byte) (tick : U32) : (j.start t i tick).slots.length = j.slots.length := by
  rcases start_cases j t i tick with h | ⟨-, k, -, h⟩ <;> simp [h]

/-- What an emission of slot `k` answers. -/
theorem emitSlot_eq_next {jn qn : ArrayName} {n m : Nat} {F : Byte → Byte → Bytes} {tick : U32} {j : JobTable} {q : Queue} {k : Nat}
    {e : Emission} :
    emitSlot jn qn n m F tick j q k = .next e ↔
      ∃ job r, j.slots[k]? = some job ∧ push qn m q (F job.target job.ind) = .next r ∧
        e = { table := { slots := j.slots.set k { job with next := tick + MIN_PERIOD_TICKS }, cur := nextIndex k n },
              queue := r.1, emitted := true } := by
  unfold emitSlot
  simp only [andThen_eq_next, memRead_eq_next, memWrite_eq_next]
  constructor
  · rintro ⟨job, hj, r, hr, slots, ⟨-, rfl⟩, h⟩
    exact ⟨job, r, hj, hr, (Host.Outcome.next.inj h).symm⟩
  · rintro ⟨job, r, hj, hr, rfl⟩
    exact ⟨job, hj, r, hr, _, ⟨(List.getElem?_eq_some_iff.mp hj).1, rfl⟩, rfl⟩

/-- What `EmitOne` answers: nothing emitted and nothing changed, or the emission of the slot the scan found. -/
theorem emitOne_eq_next {jn qn : ArrayName} {n m : Nat} {F : Byte → Byte → Bytes} {tick : U32} {j : JobTable} {q : Queue}
    {e : Emission} :
    emitOne jn qn n m F tick j q = .next e ↔
      ((j.anyActive = false ∨ scanDue jn n j tick n 0 = .next none) ∧ e = { table := j, queue := q, emitted := false }) ∨
      (j.anyActive = true ∧ ∃ k, scanDue jn n j tick n 0 = .next (some k) ∧ emitSlot jn qn n m F tick j q k = .next e) := by
  unfold emitOne
  cases h : j.anyActive
  · simp [eq_comm]
  · simp only [if_true, andThen_eq_next]
    constructor
    · rintro ⟨found, hf, h2⟩
      cases found with
      | none => exact .inl ⟨.inr hf, (Host.Outcome.next.inj h2).symm⟩
      | some k => exact .inr ⟨trivial, k, hf, h2⟩
    · rintro (⟨h1 | h1, rfl⟩ | ⟨-, k, h1, h2⟩)
      · exact absurd h1 (by simp)
      · exact ⟨none, h1, rfl⟩
      · exact ⟨some k, h1, h2⟩

/-! ## The status frame -/

@[simp] theorem statusFrame_length (p : Params) (ext : Byte) (st : Bytes) :
    (statusFrame p ext st).length = 7 + st.length + p.trailerLen := by
  simp [statusFrame, Params.trailerLen]
  omega

/-- The status array has as many bytes as were asked for. -/
theorem resolveFrom_length {s : State} {n j : Nat} {force : U32} {r : Bytes × U32} (h : resolveFrom s n j force = .next r) :
    r.1.length = n := by
  induction n generalizing j force r with
  | zero =>
    simp only [resolveFrom, Host.Outcome.next.injEq] at h
    simp [← h]
  | succ n ih =>
    simp only [resolveFrom, andThen_eq_next, Host.Outcome.next.injEq] at h
    obtain ⟨a, -, b, hb, rfl⟩ := h
    simp [ih hb]

/-- What a build answers (45_status_frame.md R111, R116). -/
theorem build_eq_next {s t : State} :
    build s = .next t ↔
      (s.statusOversize = true ∧ t = s) ∨
      (s.statusOversize = false ∧ ∃ r, resolveFrom s s.params.maxCfg 0 s.forceTrig = .next r ∧
        s.params.statusTotal ≤ s.stBuf.length ∧
        t = { s with
          stBuf := statusFrame s.params s.statusExt r.1 ++ s.stBuf.drop s.params.statusTotal
          stLen := s.params.statusTotal
          forceTrig := r.2
          oneshotAll := false
          oneshotMask := 0#32 }) := by
  unfold build
  cases h : s.statusOversize
  · simp only [Bool.false_eq_true, if_false, andThen_eq_next, memWriteFirst_eq_next]
    constructor
    · rintro ⟨r, hr, buf, ⟨hl, rfl⟩, h2⟩
      have hlen := resolveFrom_length hr
      have htot : (statusFrame s.params s.statusExt r.1).length = s.params.statusTotal := by
        simp [hlen, Params.statusTotal]
      rw [htot] at hl h2
      exact .inr ⟨trivial, r, hr, hl, (Host.Outcome.next.inj h2).symm⟩
    · rintro (⟨h1, -⟩ | ⟨-, r, hr, hl, rfl⟩)
      · exact absurd h1 (by simp)
      · have hlen := resolveFrom_length hr
        have htot : (statusFrame s.params s.statusExt r.1).length = s.params.statusTotal := by
          simp [hlen, Params.statusTotal]
        exact ⟨r, hr, _, ⟨by rw [htot]; exact hl, rfl⟩, by rw [htot]⟩
  · simp [eq_comm]

/-! ## The parsers -/

/-- What a byte makes of a parser (42_parsers.md R81 to R84). -/
theorem parseByte_eq_next {name : ArrayName} {cap : Nat} {p : Parser} {b : Byte} {r : ParseStep} :
    parseByte name cap p b = .next r ↔
      (p.state = .waitStart ∧ r = { parser := parseStart p b }) ∨
      (p.state = .waitLen ∧ r = { parser := parseLen cap p b }) ∨
      (p.state = .collect ∧ p.idx.toNat < p.buf.length ∧
        r = { parser := { p with buf := p.buf.set p.idx.toNat b, idx := p.idx + 1#8,
                                 state := if p.idx + 1#8 = p.len then .waitEnd else .collect } }) ∨
      (p.state = .waitEnd ∧ b ≠ END ∧ r = { parser := { p with state := .waitStart } }) ∨
      (p.state = .waitEnd ∧ b = END ∧ p.len.toNat ≤ p.buf.length ∧
        r = { parser := { p with state := .waitStart }, complete := some (p.buf.take p.len.toNat) }) := by
  unfold parseByte
  cases h : p.state
  · simp [eq_comm]
  · simp [eq_comm]
  · simp only [parseContent, andThen_eq_next, memWrite_eq_next]
    constructor
    · rintro ⟨q, ⟨buf, ⟨hl, rfl⟩, hq⟩, h2⟩
      refine .inr (.inr (.inl ⟨trivial, hl, ?_⟩))
      simp only [Host.Outcome.next.injEq] at hq h2
      rw [← h2, ← hq]
    · rintro (⟨h1, -⟩ | ⟨h1, -⟩ | ⟨-, hl, rfl⟩ | ⟨h1, -⟩ | ⟨h1, -⟩) <;> first | exact absurd h1 (by simp) | skip
      exact ⟨_, ⟨_, ⟨hl, rfl⟩, rfl⟩, rfl⟩
  · unfold parseEnd
    by_cases hb : b = END
    · simp only [hb, if_true, andThen_eq_next, memReadFirst_eq_next]
      constructor
      · rintro ⟨f, ⟨hl, rfl⟩, h2⟩
        exact .inr (.inr (.inr (.inr ⟨trivial, trivial, hl, (Host.Outcome.next.inj h2).symm⟩)))
      · rintro (⟨h1, -⟩ | ⟨h1, -⟩ | ⟨h1, -⟩ | ⟨-, h1, -⟩ | ⟨-, -, hl, rfl⟩) <;> first | exact absurd h1 (by simp) | skip
        exact ⟨_, ⟨hl, rfl⟩, rfl⟩
    · simp [hb, eq_comm]

/-! ## Inputs -/

/-- What a step answers, by the next input (00_scope.md R5, R8; 70 R154). -/
theorem step_eq_next {s t : State} :
    step s = .next t ↔ s.params.ok = true ∧
      ((s.port = [] ∧ t = s) ∨
       (∃ rest, s.port = .rst :: rest ∧ t = resetBlock { s with port := rest }) ∨
       (∃ a w rest, s.port = .word a w :: rest ∧
          ((∃ i, decodePort a w = .ok i ∧ exec i (accept a rest s) = .next t) ∨
           (∃ e, decodePort a w = .error e ∧ t = refusePortWord (accept a rest s))))) := by
  unfold step
  cases hok : s.params.ok
  · simp
  · rw [if_pos rfl]
    simp only [true_and, acceptInput]
    cases hp : s.port with
    | nil =>
      simp
      exact eq_comm
    | cons x rest =>
      cases x with
      | rst => simp [eq_comm]
      | word a w =>
        simp only [acceptWord]
        cases hd : decodePort a w with
        | ok i => simp [hd]
        | error e =>
          simp [hd]
          exact eq_comm

end Sys2Proof.Machine
end

