-- ==== Sys2Proof/Laws/Frames.lean ====
section
/-!
SUPPORT. What the application of effects and the handling of completed frames and bytes answer (42_parsers.md, 46_host_commands.md).
-/

namespace Sys2Proof.Machine

@[simp] theorem applyEffects_nil (s : State) : applyEffects [] s = .next s := rfl

theorem applyEffects_cons_eq_next {e : EffectRec} {es : List EffectRec} {s t : State} :
    applyEffects (e :: es) s = .next t ↔ ∃ u, applyEffect e s = .next u ∧ applyEffects es u = .next t := andThen_eq_next

/-- What keeps through every record of a list keeps through the list (R127). -/
theorem applyEffects_induction {P : State → Prop} {es : List EffectRec}
    (step : ∀ e ∈ es, ∀ s t, P s → applyEffect e s = .next t → P t) {s t : State} (hs : P s) (h : applyEffects es s = .next t) : P t := by
  induction es generalizing s with
  | nil => exact Host.Outcome.next.inj h ▸ hs
  | cons e es ih =>
    obtain ⟨u, hu, ht⟩ := applyEffects_cons_eq_next.1 h
    exact ih (fun e' he => step e' (List.mem_cons_of_mem _ he)) (step e List.mem_cons_self s u hs hu) ht

/-- An upload writes the map and its count, or nothing (R128). -/
theorem execEffMapUpload_eq_next {pl : Bytes} {s t : State} :
    execEffMapUpload pl s = .next t ↔
      (pl = [] ∧ t = s) ∨
      (∃ n pairs, pl = n :: pairs ∧ (uploadedMap s.params.maxCfg n.toNat pairs).length ≤ s.cfg.length ∧
        t = { s with
          cfg := uploadedMap s.params.maxCfg n.toNat pairs ++ s.cfg.drop (uploadedMap s.params.maxCfg n.toNat pairs).length
          cfgCount := (uploadedMap s.params.maxCfg n.toNat pairs).length }) := by
  cases pl with
  | nil => simp [execEffMapUpload, eq_comm]
  | cons n pairs =>
    simp only [execEffMapUpload, andThen_eq_next, memWriteFirst_eq_next]
    constructor
    · rintro ⟨c, ⟨hl, rfl⟩, h⟩
      exact .inr ⟨n, pairs, rfl, hl, (Host.Outcome.next.inj h).symm⟩
    · rintro (⟨h, -⟩ | ⟨n', pairs', h, hl, rfl⟩)
      · exact nomatch h
      · obtain ⟨rfl, rfl⟩ := List.cons.inj h
        exact ⟨_, ⟨hl, rfl⟩, rfl⟩

/-- A broadcast request sets the flag of its channel, or is refused (R133). -/
theorem execEffBcastReq_eq_next {tbl : Byte} {s t : State} :
    execEffBcastReq tbl s = .next t ↔
      (tbl = 0#8 ∧ t = { s with bcastPendSl := true }) ∨ (tbl = 1#8 ∧ t = { s with bcastPendPx := true }) := by
  unfold execEffBcastReq
  split
  · subst_vars
    simp [eq_comm]
  · split
    · subst_vars
      simp [eq_comm]
    · simp_all

/-- A host frame with a service code: its effects and one build, or the note of activity alone (R89, R126, R127). -/
theorem hostCommand_eq_next {sc g a : Byte} {pl : Bytes} {s t : State} :
    hostCommand sc g a pl s = .next t ↔
      (s.params.dispatch sc g a pl = none ∧ t = noteActivity s) ∨
      (∃ es u, s.params.dispatch sc g a pl = some es ∧ applyEffects es (noteActivity s) = .next u ∧ build u = .next t) := by
  unfold hostCommand
  cases s.params.dispatch sc g a pl with
  | none => simp [eq_comm]
  | some es => simp [andThen_eq_next]

/-- The service code a kind stands for, where it is one of the named ones. -/
theorem Params.hostCode_named {p : Params} {sc : Byte} :
    (p.hostCode sc = .poll → sc = p.scPoll) ∧ (p.hostCode sc = .ledCtrl → sc = p.scLedCtrl) ∧
    (p.hostCode sc = .oneshotLedReset → sc = p.scOneshotLedReset) ∧ (p.hostCode sc = .mapUpload → sc = p.scMapUpload) ∧
    (p.hostCode sc = .ledReset → sc = p.scLedReset) ∧ (p.hostCode sc = .relaySet → sc = p.scRelaySet) ∧
    (p.hostCode sc = .btnReset → sc = p.scBtnReset) ∧ (p.hostCode sc = .pxMask → sc = p.scPxMask) ∧
    (p.hostCode sc = .statusReply → sc = p.scStatusReply) := by
  unfold Params.hostCode
  split_ifs <;> simp_all

/-- What a byte on the host channel answers (R87). -/
theorem execHrx_eq_next {b : Byte} {s t : State} :
    execHrx b s = .next t ↔
      ∃ r u, parseByte .hpBuf s.params.hostRxCap s.hp b = .next r ∧ handOn hostFrame r.complete { s with hp := r.parser } = .next u ∧
        t = respond .ack u := by
  unfold execHrx
  simp only [andThen_eq_next]
  constructor
  · rintro ⟨r, hr, u, hu, h⟩
    exact ⟨r, u, hr, hu, (Host.Outcome.next.inj h).symm⟩
  · rintro ⟨r, u, hr, hu, rfl⟩
    exact ⟨r, hr, u, hu, rfl⟩

/-- What a byte on the slave channel answers (R88). -/
theorem execSrx_eq_next {b : Byte} {s t : State} :
    execSrx b s = .next t ↔
      ∃ r u, parseByte .spBuf s.params.slaveRxCap s.sp b = .next r ∧ handOn slaveFrame r.complete { s with sp := r.parser } = .next u ∧
        t = respond .ack u := by
  unfold execSrx
  simp only [andThen_eq_next]
  constructor
  · rintro ⟨r, hr, u, hu, h⟩
    exact ⟨r, u, hr, hu, (Host.Outcome.next.inj h).symm⟩
  · rintro ⟨r, u, hr, hu, rfl⟩
    exact ⟨r, hr, u, hu, rfl⟩

@[simp] theorem handOn_none (k : Bytes → State → Res State) (s : State) : handOn k none s = .next s := rfl

@[simp] theorem handOn_some (k : Bytes → State → Res State) (f : Bytes) (s : State) : handOn k (some f) s = k f s := rfl

/-- A completed slave frame changes the masks as a status reply, or nothing; it never stops (R90 to R93). -/
theorem slaveFrame_cases (f : Bytes) (s : State) :
    slaveFrame f s = .next s ∨ ∃ a st, ReplyCounts a st ∧ slaveFrame f s = .next (statusReply a st s) := by
  unfold slaveFrame
  split
  · rename_i sc a st
    split_ifs with h1 h2
    · exact .inl rfl
    · exact .inr ⟨a, st, h2, rfl⟩
    · exact .inl rfl
  · exact .inl rfl

end Sys2Proof.Machine
end

