-- ==== Sys2Proof/Laws/Params.lean ====
section
/-!
SUPPORT. What the configuration's tables can say: a frame function or a `DISPATCH` of any values is one of them (logs 13, 14); and the
lengths of the frames of a well-formed configuration.
-/

namespace Sys2Proof

theorem Params.ok_iff (p : Params) : p.ok = true ↔ p.Conditions := decide_eq_true_iff

@[simp] theorem Params.slaveLink_led (p : Params) (t i : Byte) : p.slaveLink (.led t i) = p.slLed t i := rfl

@[simp] theorem Params.slaveLink_off (p : Params) : p.slaveLink .off = p.slOffFrame := rfl

/-- A frame function's value is one of its special frames or its layout with the arguments put in. -/
theorem FrameFn.frame_cases (f : FrameFn) (x y : Byte) :
    (∃ e ∈ f.special, f.frame x y = e.2.2) ∨ f.frame x y = f.slots.map (FrameByte.value x y) := by
  unfold FrameFn.frame
  cases h : f.special.find? (fun e => decide (e.1 = x ∧ e.2.1 = y)) with
  | none => exact .inr rfl
  | some e => exact .inl ⟨e, List.mem_of_find?_eq_some h, rfl⟩

/-- Every frame of a frame function that meets the length condition meets it. -/
theorem FrameFn.frame_length {f : FrameFn} {max : Nat} (h : f.LengthsOk max) (x y : Byte) :
    1 ≤ (f.frame x y).length ∧ (f.frame x y).length ≤ max := by
  obtain ⟨e, he, h1⟩ | h1 := f.frame_cases x y
  · exact h1 ▸ h.2 e he
  · simpa [h1] using h.1

/-- The record that a template with fixed fields gives is those fields, whatever the frame. -/
def EffectRec.template (e : EffectRec) : EffectTemplate where
  code := e.code
  tbl := e.tbl
  target := .lit e.target
  ind := .lit e.ind
  all := .lit e.all
  mask := .lit e.mask
  bytes := .lit e.bytes

@[simp] theorem EffectRec.template_record (e : EffectRec) (g a : Byte) (pl : Bytes) : e.template.record g a pl = e := rfl

/-- The row for exactly one frame. -/
def exactRow (f : Byte → Byte → Byte → Bytes → List EffectRec) (k : Byte × Byte × Byte × Bytes) : DispatchRow where
  sc := k.1
  group := some k.2.1
  addr := some k.2.2.1
  payload := some k.2.2.2
  effects := (f k.1 k.2.1 k.2.2.1 k.2.2.2).map EffectRec.template

/-- Every function from frames to effect lists is a dispatch table, on any finite list of frames (the frames that fit a parser are
finitely many). -/
theorem openDispatch_represents (p : Params) (f : Byte → Byte → Byte → Bytes → List EffectRec)
    (frames : List (Byte × Byte × Byte × Bytes)) :
    ∃ rows, ∀ k ∈ frames,
      ({ p with dispatchRows := rows } : Params).openDispatch k.1 k.2.1 k.2.2.1 k.2.2.2 = f k.1 k.2.1 k.2.2.1 k.2.2.2 := by
  refine ⟨frames.map (exactRow f), fun k hk => ?_⟩
  have adm : ∀ k' : Byte × Byte × Byte × Bytes, (exactRow f k').admits k.1 k.2.1 k.2.2.1 k.2.2.2 = true ↔ k' = k := by
    rintro ⟨a, b, c, d⟩
    obtain ⟨a', b', c', d'⟩ := k
    simp only [exactRow, DispatchRow.admits, Bool.and_eq_true, Bool.or_eq_true, decide_eq_true_eq, List.all_nil, Nat.zero_le,
      Option.some.injEq, reduceCtorEq, false_or, and_true, Prod.mk.injEq, and_assoc]
    exact and_congr decide_eq_true_iff Iff.rfl
  cases h : (frames.map (exactRow f)).find? (fun r => r.admits k.1 k.2.1 k.2.2.1 k.2.2.2) with
  | none =>
    have := List.find?_eq_none.1 h _ (List.mem_map_of_mem hk)
    exact absurd ((adm k).2 rfl) this
  | some r =>
    obtain ⟨k', -, rfl⟩ := List.mem_map.1 (List.mem_of_find?_eq_some h)
    obtain rfl := (adm k').1 (List.find?_some (p := fun r => DispatchRow.admits r k.1 k.2.1 k.2.2.1 k.2.2.2) h)
    simp [Params.openDispatch, h, exactRow, Function.comp_def]

/-- Every function from two bytes to byte strings is a frame function, on any finite list of arguments (there are 65536); where its frames
for those arguments obey the length condition, or carry `SC_SLAVE`, the table does (log 14). -/
theorem frameFn_represents (f : Byte → Byte → Bytes) (arguments : List (Byte × Byte)) :
    ∃ F : FrameFn, (∀ x y, (x, y) ∈ arguments → F.frame x y = f x y) ∧
      (∀ max, 1 ≤ max → (∀ e ∈ arguments, 1 ≤ (f e.1 e.2).length ∧ (f e.1 e.2).length ≤ max) → F.LengthsOk max) ∧
      ((∀ e ∈ arguments, SC_SLAVE ∈ f e.1 e.2) → F.CarriesSlave) := by
  refine ⟨{ slots := [.lit SC_SLAVE], special := arguments.map (fun e => (e.1, e.2, f e.1 e.2)) }, fun x y h => ?_,
    fun max hm h => ⟨⟨Nat.le_refl 1, hm⟩, List.forall_mem_map.2 h⟩, fun h => ⟨List.mem_singleton_self _, List.forall_mem_map.2 h⟩⟩
  unfold FrameFn.frame
  cases hf : (arguments.map (fun e => (e.1, e.2, f e.1 e.2))).find? (fun e => decide (e.1 = x ∧ e.2.1 = y)) with
  | none =>
    have := List.find?_eq_none.1 hf (x, y, f x y) (List.mem_map.2 ⟨(x, y), h, rfl⟩)
    simp at this
  | some e =>
    obtain ⟨k, -, rfl⟩ := List.mem_map.1 (List.mem_of_find?_eq_some hf)
    have hk := List.find?_some hf
    simp only [decide_eq_true_eq] at hk
    simp [hk.1, hk.2]

end Sys2Proof
end

