-- ==== Sys2Proof/Laws/PerInstr.lean ====
section
/-!
SUPPORT. Families of statements made per instruction. `EncodingFormat`: an instruction is encoded in its row's format, and the bits the
row fixes (`OP` of R50, SC of R54, R56, R57, R59, the code of R63) stand where the format has them.
-/

namespace Sys2Proof.Laws.EncodingFormat

/-- The formats of 30_encoding.md. -/
inductive Format where
  | portWord
  | hostFrame
  | slaveFrame
  | slaveLink
  | statusFrame
  | effectRecord
  deriving DecidableEq, Repr

/-- The format of an encoding. -/
def formatOf : Encoded → Format
  | .port _ _ => .portWord
  | .hostFrame _ => .hostFrame
  | .slaveFrame _ => .slaveFrame
  | .slaveLink _ => .slaveLink
  | .statusFrame _ => .statusFrame
  | .effect _ => .effectRecord

/-- The field by which an encoding is told apart: `OP`, SC or the effect code. -/
def selectorOf : Encoded → Option Nat
  | .port _ w => some (portOp w).toNat
  | .hostFrame bytes => bytes[4]?.map BitVec.toNat
  | .slaveFrame bytes => bytes[2]?.map BitVec.toNat
  | .slaveLink bytes => bytes[0]?.map BitVec.toNat
  | .statusFrame sc => some sc.toNat
  | .effect e => some e.code.toNat

/-- The format of an instruction's row. -/
def rowFormat : Instr → Format
  | .tick => .portWord
  | .hrx _ => .portWord
  | .srx _ => .portWord
  | .btn _ => .portWord
  | .slqPop => .portWord
  | .pxqPop => .portWord
  | .stPeek => .portWord
  | .stSent => .portWord
  | .slqDrops => .portWord
  | .pxqDrops => .portWord
  | .reservedOp0 _ => .portWord
  | .reservedOpB _ => .portWord
  | .reservedOpC _ => .portWord
  | .reservedOpD _ => .portWord
  | .reservedOpE _ => .portWord
  | .reservedOpF _ => .portWord
  | .scPoll _ _ _ => .hostFrame
  | .scLedCtrl _ _ _ => .hostFrame
  | .scOneshotLedReset _ _ _ => .hostFrame
  | .scMapUpload _ _ _ => .hostFrame
  | .scLedReset _ _ _ => .hostFrame
  | .scRelaySet _ _ _ => .hostFrame
  | .scBtnReset _ _ _ => .hostFrame
  | .scPxMask _ _ _ => .hostFrame
  | .scStatusReplyReceived _ _ _ => .hostFrame
  | .hostUnrecognised _ => .hostFrame
  | .slaveStatusReply _ _ => .slaveFrame
  | .slaveIgnoredShape _ => .slaveFrame
  | .slaveIgnoredValue _ _ => .slaveFrame
  | .slaveLinkFrameSent _ => .slaveLink
  | .statusFrameSent => .statusFrame
  | .effMapUpload _ => .effectRecord
  | .effJobStart _ _ _ => .effectRecord
  | .effJobStopInd _ _ => .effectRecord
  | .effJobStopAll _ => .effectRecord
  | .effJobRemoveExcept _ _ _ => .effectRecord
  | .effBcastReq _ => .effectRecord
  | .effOneshotSet _ _ => .effectRecord
  | .effForceSet _ => .effectRecord
  | .effRelaySet _ => .effectRecord
  | .effBtnReset => .effectRecord
  | .effPxMask _ => .effectRecord
  | .reservedEffect _ => .effectRecord

/-- The selector an instruction's row fixes in the configuration `p`; `none` for a row that fixes none. -/
def rowSelector (p : Params) : Instr → Option Nat
  | .tick => some 1
  | .hrx _ => some 2
  | .srx _ => some 3
  | .btn _ => some 4
  | .slqPop => some 5
  | .pxqPop => some 6
  | .stPeek => some 7
  | .stSent => some 8
  | .slqDrops => some 9
  | .pxqDrops => some 10
  | .reservedOp0 _ => some 0
  | .reservedOpB _ => some 11
  | .reservedOpC _ => some 12
  | .reservedOpD _ => some 13
  | .reservedOpE _ => some 14
  | .reservedOpF _ => some 15
  | .scPoll _ _ _ => some p.scPoll.toNat
  | .scLedCtrl _ _ _ => some p.scLedCtrl.toNat
  | .scOneshotLedReset _ _ _ => some p.scOneshotLedReset.toNat
  | .scMapUpload _ _ _ => some p.scMapUpload.toNat
  | .scLedReset _ _ _ => some p.scLedReset.toNat
  | .scRelaySet _ _ _ => some p.scRelaySet.toNat
  | .scBtnReset _ _ _ => some p.scBtnReset.toNat
  | .scPxMask _ _ _ => some p.scPxMask.toNat
  | .scStatusReplyReceived _ _ _ => some p.scStatusReply.toNat
  | .hostUnrecognised _ => none
  | .slaveStatusReply _ _ => some p.scSlaveStatus.toNat
  | .slaveIgnoredShape _ => none
  | .slaveIgnoredValue _ _ => some p.scSlaveStatus.toNat
  | .slaveLinkFrameSent _ => some 0x85
  | .statusFrameSent => some p.scStatusReply.toNat
  | .effMapUpload _ => some 1
  | .effJobStart _ _ _ => some 2
  | .effJobStopInd _ _ => some 3
  | .effJobStopAll _ => some 4
  | .effJobRemoveExcept _ _ _ => some 5
  | .effBcastReq _ => some 6
  | .effOneshotSet _ _ => some 7
  | .effForceSet _ => some 8
  | .effRelaySet _ => some 9
  | .effBtnReset => some 10
  | .effPxMask _ => some 11
  | .reservedEffect code => some code.toNat

/-- What the family says of an instruction. -/
def Statement (i : Instr) : Prop :=
  ∀ p : Params, formatOf (encode p i) = rowFormat i ∧ ∀ v, rowSelector p i = some v → selectorOf (encode p i) = some v

/-- The selector of a port word made from an `OP` and 12 further bits. -/
theorem selectorOf_port (a : Agent) (op : BitVec 4) (low : BitVec 12) : selectorOf (.port a (op ++ low)) = some op.toNat := by
  have h : portOp (op ++ low) = op := by
    apply BitVec.eq_of_getLsbD_eq
    intro i hi
    rw [portOp, BitVec.getLsbD_extractLsb', BitVec.getLsbD_append]
    simp [hi, show ¬ 12 + i < 12 by omega]
  simp [selectorOf, h]

theorem tick : Statement .tick :=
  fun _ => ⟨rfl, fun _ h => (selectorOf_port _ 0x1#4 _).trans h⟩

theorem hrx (b : Byte) : Statement (.hrx b) :=
  fun _ => ⟨rfl, fun _ h => (selectorOf_port _ 0x2#4 _).trans h⟩

theorem srx (b : Byte) : Statement (.srx b) :=
  fun _ => ⟨rfl, fun _ h => (selectorOf_port _ 0x3#4 _).trans h⟩

theorem btn (bits : Byte) : Statement (.btn bits) :=
  fun _ => ⟨rfl, fun _ h => (selectorOf_port _ 0x4#4 _).trans h⟩

theorem slqPop : Statement .slqPop :=
  fun _ => ⟨rfl, fun _ h => (selectorOf_port _ 0x5#4 _).trans h⟩

theorem pxqPop : Statement .pxqPop :=
  fun _ => ⟨rfl, fun _ h => (selectorOf_port _ 0x6#4 _).trans h⟩

theorem stPeek : Statement .stPeek :=
  fun _ => ⟨rfl, fun _ h => (selectorOf_port _ 0x7#4 _).trans h⟩

theorem stSent : Statement .stSent :=
  fun _ => ⟨rfl, fun _ h => (selectorOf_port _ 0x8#4 _).trans h⟩

theorem slqDrops : Statement .slqDrops :=
  fun _ => ⟨rfl, fun _ h => (selectorOf_port _ 0x9#4 _).trans h⟩

theorem pxqDrops : Statement .pxqDrops :=
  fun _ => ⟨rfl, fun _ h => (selectorOf_port _ 0xa#4 _).trans h⟩

theorem reservedOp0 (low : BitVec 12) : Statement (.reservedOp0 low) :=
  fun _ => ⟨rfl, fun _ h => (selectorOf_port _ 0x0#4 _).trans h⟩

theorem reservedOpB (low : BitVec 12) : Statement (.reservedOpB low) :=
  fun _ => ⟨rfl, fun _ h => (selectorOf_port _ 0xb#4 _).trans h⟩

theorem reservedOpC (low : BitVec 12) : Statement (.reservedOpC low) :=
  fun _ => ⟨rfl, fun _ h => (selectorOf_port _ 0xc#4 _).trans h⟩

theorem reservedOpD (low : BitVec 12) : Statement (.reservedOpD low) :=
  fun _ => ⟨rfl, fun _ h => (selectorOf_port _ 0xd#4 _).trans h⟩

theorem reservedOpE (low : BitVec 12) : Statement (.reservedOpE low) :=
  fun _ => ⟨rfl, fun _ h => (selectorOf_port _ 0xe#4 _).trans h⟩

theorem reservedOpF (low : BitVec 12) : Statement (.reservedOpF low) :=
  fun _ => ⟨rfl, fun _ h => (selectorOf_port _ 0xf#4 _).trans h⟩

theorem scPoll (g : Byte) (a : Byte) (p : Bytes) : Statement (.scPoll g a p) :=
  fun _ => ⟨rfl, fun _ h => h ▸ rfl⟩

theorem scLedCtrl (g : Byte) (a : Byte) (p : Bytes) : Statement (.scLedCtrl g a p) :=
  fun _ => ⟨rfl, fun _ h => h ▸ rfl⟩

theorem scOneshotLedReset (g : Byte) (a : Byte) (p : Bytes) : Statement (.scOneshotLedReset g a p) :=
  fun _ => ⟨rfl, fun _ h => h ▸ rfl⟩

theorem scMapUpload (g : Byte) (a : Byte) (p : Bytes) : Statement (.scMapUpload g a p) :=
  fun _ => ⟨rfl, fun _ h => h ▸ rfl⟩

theorem scLedReset (g : Byte) (a : Byte) (p : Bytes) : Statement (.scLedReset g a p) :=
  fun _ => ⟨rfl, fun _ h => h ▸ rfl⟩

theorem scRelaySet (g : Byte) (a : Byte) (p : Bytes) : Statement (.scRelaySet g a p) :=
  fun _ => ⟨rfl, fun _ h => h ▸ rfl⟩

theorem scBtnReset (g : Byte) (a : Byte) (p : Bytes) : Statement (.scBtnReset g a p) :=
  fun _ => ⟨rfl, fun _ h => h ▸ rfl⟩

theorem scPxMask (g : Byte) (a : Byte) (p : Bytes) : Statement (.scPxMask g a p) :=
  fun _ => ⟨rfl, fun _ h => h ▸ rfl⟩

theorem scStatusReplyReceived (g : Byte) (a : Byte) (p : Bytes) : Statement (.scStatusReplyReceived g a p) :=
  fun _ => ⟨rfl, fun _ h => h ▸ rfl⟩

theorem hostUnrecognised (content : Bytes) : Statement (.hostUnrecognised content) :=
  fun _ => ⟨rfl, fun _ h => nomatch h⟩

theorem slaveStatusReply (addr : Byte) (state : Byte) : Statement (.slaveStatusReply addr state) :=
  fun _ => ⟨rfl, fun _ h => h ▸ rfl⟩

theorem slaveIgnoredShape (content : Bytes) : Statement (.slaveIgnoredShape content) :=
  fun _ => ⟨rfl, fun _ h => nomatch h⟩

theorem slaveIgnoredValue (addr : Byte) (state : Byte) : Statement (.slaveIgnoredValue addr state) :=
  fun _ => ⟨rfl, fun _ h => h ▸ rfl⟩

theorem slaveLinkFrameSent (frame : SlaveLinkFrame) : Statement (.slaveLinkFrameSent frame) := by
  intro p
  cases frame <;> exact ⟨rfl, fun _ h => h ▸ rfl⟩

theorem statusFrameSent : Statement .statusFrameSent :=
  fun _ => ⟨rfl, fun _ h => h ▸ rfl⟩

theorem effMapUpload (payload : Bytes) : Statement (.effMapUpload payload) :=
  fun _ => ⟨rfl, fun _ h => h ▸ rfl⟩

theorem effJobStart (tbl : Byte) (target : Byte) (ind : Byte) : Statement (.effJobStart tbl target ind) :=
  fun _ => ⟨rfl, fun _ h => h ▸ rfl⟩

theorem effJobStopInd (tbl : Byte) (ind : Byte) : Statement (.effJobStopInd tbl ind) :=
  fun _ => ⟨rfl, fun _ h => h ▸ rfl⟩

theorem effJobStopAll (tbl : Byte) : Statement (.effJobStopAll tbl) :=
  fun _ => ⟨rfl, fun _ h => h ▸ rfl⟩

theorem effJobRemoveExcept (tbl : Byte) (target : Byte) (keep : Byte) : Statement (.effJobRemoveExcept tbl target keep) :=
  fun _ => ⟨rfl, fun _ h => h ▸ rfl⟩

theorem effBcastReq (tbl : Byte) : Statement (.effBcastReq tbl) :=
  fun _ => ⟨rfl, fun _ h => h ▸ rfl⟩

theorem effOneshotSet (all : Bool) (mask : U32) : Statement (.effOneshotSet all mask) :=
  fun _ => ⟨rfl, fun _ h => h ▸ rfl⟩

theorem effForceSet (mask : U32) : Statement (.effForceSet mask) :=
  fun _ => ⟨rfl, fun _ h => h ▸ rfl⟩

theorem effRelaySet (value : Bytes) : Statement (.effRelaySet value) :=
  fun _ => ⟨rfl, fun _ h => h ▸ rfl⟩

theorem effBtnReset : Statement .effBtnReset :=
  fun _ => ⟨rfl, fun _ h => h ▸ rfl⟩

theorem effPxMask (value : Bytes) : Statement (.effPxMask value) :=
  fun _ => ⟨rfl, fun _ h => h ▸ rfl⟩

theorem reservedEffect (code : Byte) : Statement (.reservedEffect code) :=
  fun _ => ⟨rfl, fun _ h => h ▸ rfl⟩

end Sys2Proof.Laws.EncodingFormat
end

