-- ==== Sys2Proof/Laws/Tick.lean ====
section
/-!
SUPPORT. What the steps of `TICK` answer, one lemma for each (41_tick_scheduler.md R67 to R76).
-/

namespace Sys2Proof.Machine

/-- Step 2, slave-link half: nothing, or a push and the flag cleared. -/
theorem serveSl_eq_next {s t : State} :
    serveSl s = .next t ↔
      (s.bcastPendSl = false ∧ t = s) ∨
      (s.bcastPendSl = true ∧ ∃ r, push .slqSlot s.params.slSlots s.slq s.params.slOffFrame = .next r ∧
        t = { s with slq := r.1, bcastPendSl := false }) := by
  unfold serveSl
  cases h : s.bcastPendSl
  · simp [eq_comm]
  · simp only [if_true, andThen_eq_next, pushSl_eq_next]
    constructor
    · rintro ⟨u, ⟨r, hr, rfl⟩, h2⟩
      exact .inr ⟨trivial, r, hr, (Host.Outcome.next.inj h2).symm⟩
    · rintro (⟨h1, -⟩ | ⟨-, r, hr, rfl⟩)
      · exact absurd h1 (by simp)
      · exact ⟨_, ⟨r, hr, rfl⟩, rfl⟩

/-- Step 2, pixel-strip half. -/
theorem servePx_eq_next {s t : State} :
    servePx s = .next t ↔
      (s.bcastPendPx = false ∧ t = s) ∨
      (s.bcastPendPx = true ∧ ∃ r, push .pxqSlot s.params.pxSlots s.pxq s.params.pxOffFrame = .next r ∧
        t = { s with pxq := r.1, bcastPendPx := false }) := by
  unfold servePx
  cases h : s.bcastPendPx
  · simp [eq_comm]
  · simp only [if_true, andThen_eq_next, pushPx_eq_next]
    constructor
    · rintro ⟨u, ⟨r, hr, rfl⟩, h2⟩
      exact .inr ⟨trivial, r, hr, (Host.Outcome.next.inj h2).symm⟩
    · rintro (⟨h1, -⟩ | ⟨-, r, hr, rfl⟩)
      · exact absurd h1 (by simp)
      · exact ⟨_, ⟨r, hr, rfl⟩, rfl⟩

theorem serveBroadcasts_eq_next {s t : State} :
    serveBroadcasts s = .next t ↔ ∃ u, serveSl s = .next u ∧ servePx u = .next t := andThen_eq_next

/-- Branch c: the entry at the clamped cursor is polled, after the commit at zero. -/
theorem pollOne_eq_next {s t : State} :
    pollOne s = .next t ↔
      ∃ a r, s.cfg[(commitAtZero (clampCursor s)).pollCur]? = some a ∧
        push .slqSlot (commitAtZero (clampCursor s)).params.slSlots (commitAtZero (clampCursor s)).slq (s.params.slPoll a) = .next r ∧
        t = { commitAtZero (clampCursor s) with
          slq := r.1
          pollCur := ((commitAtZero (clampCursor s)).pollCur + 1) % (commitAtZero (clampCursor s)).cfgCount } := by
  unfold pollOne
  simp only [andThen_eq_next, memRead_eq_next, pushSl_eq_next]
  constructor
  · rintro ⟨a, ha, u, ⟨r, hr, rfl⟩, h2⟩
    exact ⟨a, r, ha, hr, (Host.Outcome.next.inj h2).symm⟩
  · rintro ⟨a, r, ha, hr, rfl⟩
    exact ⟨a, ha, _, ⟨r, hr, rfl⟩, rfl⟩

/-- Step 4: the branch taken (R73). -/
theorem slaveLinkTurn_eq_next {s t : State} :
    slaveLinkTurn s = .next t ↔
      ∃ e, emitSl s = .next e ∧
        ((e.emitted = true ∧ t = emit .pxRequestFlush { s with slj := e.table, slq := e.queue, ledActive := true }) ∨
         (e.emitted = false ∧ s.ledActive = true ∧ t = { s with ledActive := false, pollCur := 0 }) ∨
         (e.emitted = false ∧ s.ledActive = false ∧ 0 < s.cfgCount ∧ pollOne s = .next t) ∨
         (e.emitted = false ∧ s.ledActive = false ∧ s.cfgCount = 0 ∧ t = s)) := by
  unfold slaveLinkTurn
  rw [andThen_eq_next]
  refine exists_congr fun e => and_congr_right fun _ => ?_
  cases e.emitted
  · cases s.ledActive
    · obtain h | h : s.cfgCount = 0 ∨ 0 < s.cfgCount := by omega
      · simp [h]
        exact eq_comm
      · have h0 : s.cfgCount ≠ 0 := by omega
        simp [h, h0]
    · simp
      exact eq_comm
  · simp
    exact eq_comm

/-- Step 5: one pixel-strip emission (R76). -/
theorem pixelTurn_eq_next {s t : State} :
    pixelTurn s = .next t ↔ ∃ e, emitPx s = .next e ∧ t = { s with pxj := e.table, pxq := e.queue } := by
  unfold pixelTurn
  rw [andThen_eq_next]
  exact exists_congr fun e => and_congr_right fun _ => ⟨fun h => (Host.Outcome.next.inj h).symm, fun h => h ▸ rfl⟩

/-- What `TICK` answers (R67). -/
theorem execTick_eq_next {s t : State} :
    execTick s = .next t ↔
      ∃ u, serveBroadcasts (tickAdvance s) = .next u ∧
        ((u.isIdle = true ∧ t = respond .ack (idleTick u)) ∨
         (u.isIdle = false ∧ ∃ v w, slaveLinkTurn { u with idleCleared := false } = .next v ∧
            pixelTurn (emit .pxRequestFlush v) = .next w ∧ t = respond .ack w)) := by
  unfold execTick activeTick
  rw [andThen_eq_next]
  refine exists_congr fun u => and_congr_right fun _ => ?_
  cases u.isIdle
  · simp only [Bool.false_eq_true, if_false, false_and, false_or, true_and, andThen_eq_next]
    constructor
    · rintro ⟨w, ⟨v, hv, hw⟩, h⟩
      exact ⟨v, w, hv, hw, (Host.Outcome.next.inj h).symm⟩
    · rintro ⟨v, w, hv, hw, rfl⟩
      exact ⟨w, ⟨v, hv, hw⟩, rfl⟩
  · simp [eq_comm]

end Sys2Proof.Machine
end

