-- ==== Sys2Proof/Tests/Slice0.lean ====
section
/-!
SUPPORT. The model's own tests. Expected values come from spec/: the encodings of 30_encoding.md written out by hand, and the vectors of
95_test_vectors.md, named in each test's comment. The last part has, for each statement of
Certificates/Slice0/Obligations.lean with hypotheses, states and operands that meet them.
-/

namespace Sys2Proof.Tests

open Sys2Proof Sys2Proof.Machine

/-- The test configuration TC. -/
abbrev tc : Params := testConfiguration

/-- One field of the state an operation answers, if it answers one. -/
def got {α : Type} (r : Res State) (f : State → α) : Option α :=
  match r with
  | .next t => some (f t)
  | _ => none

/-- The operation answers a next state. -/
def isNext {α : Type} (r : Res α) : Bool :=
  match r with
  | .next _ => true
  | _ => false

theorem exists_next {α : Type} {r : Res α} (h : isNext r = true) : ∃ t, r = .next t := by
  cases r with
  | next t => exact ⟨t, rfl⟩
  | fault => exact nomatch h
  | refused => exact nomatch h

/-- The refusal an operation answers, if it answers one. -/
def refusal {α : Type} (r : Res α) : Option Refusal :=
  match r with
  | .refused x => some x
  | _ => none

/-- The instruction a decoding answers, if it answers one. -/
def read (r : Except DecodeError Instr) : Option Instr := r.toOption

/-- Reset with a word presented. -/
def presenting (a : Agent) (w : PortWord) : State := { State.reset with port := [.word a w] }

/-- The host parser has collected this content and waits for END. -/
def hostCollected (f : Bytes) (s : State) : State :=
  { s with hp := { state := .waitEnd, len := BitVec.ofNat 8 f.length, idx := BitVec.ofNat 8 f.length,
                   buf := f ++ List.replicate (s.params.hostRxCap - f.length) 0#8 } }

/-- The slave parser has collected this content and waits for END. -/
def slaveCollected (f : Bytes) (s : State) : State :=
  { s with sp := { state := .waitEnd, len := BitVec.ofNat 8 f.length, idx := BitVec.ofNat 8 f.length,
                   buf := f ++ List.replicate (s.params.slaveRxCap - f.length) 0#8 } }

/-- A connector map of these addresses. -/
def mapped (as : Bytes) (s : State) : State :=
  { s with cfg := as ++ List.replicate (s.params.maxCfg - as.length) 0#8, cfgCount := as.length }

/-- An active job. -/
def job (t i : Byte) (next : U32) : Job := { target := t, ind := i, next := next, active := true }

/-- An unused job slot. -/
def noJob : Job := { target := 0#8, ind := 0#8, next := 0#32, active := false }

/-- A queue of `n` slots that holds these frames from slot 0 on. -/
def holding (n : Nat) (fs : List Bytes) : Queue :=
  { slot := fs ++ List.replicate (n - fs.length) [], head := fs.length, tail := 0, drops := 0#32 }

/-- Seven frames of one byte, which fill a queue of eight slots. -/
def sevenFrames : List Bytes := [[1], [2], [3], [4], [5], [6], [7]]

/-- The status frame of TC with these bytes 5 to 9 (95_test_vectors.md section 2). -/
def tcStatus (ext a b c d : Byte) : Bytes := [0x27, 0x09, 0x01, 0x00, 0x87, ext, a, b, c, d, 0x0D, 0x16]

/-! ## WellFormed refuses an ill-formed term of each check -/

/-- A payload of 30 bytes: LEN would be 33, above TC's `HOST_RX_CAP` of 32. -/
def longPayload : Bytes := List.replicate 30 0#8

theorem test_wellFormed_refuses_long_host_frames :
    ∀ i ∈ [Instr.scPoll 0 0 longPayload, .scLedCtrl 0 0 longPayload, .scOneshotLedReset 0 0 longPayload, .scMapUpload 0 0 longPayload,
      .scLedReset 0 0 longPayload, .scRelaySet 0 0 longPayload, .scBtnReset 0 0 longPayload, .scPxMask 0 0 longPayload,
      .scStatusReplyReceived 0 0 longPayload], i.wellFormed tc = false := by decide

theorem test_wellFormed_takes_the_longest_host_frame : (Instr.scPoll 0 0 (List.replicate 29 0#8)).wellFormed tc = true := by decide

theorem test_wellFormed_refuses_unrecognised_forms :
    ∀ f ∈ [([] : Bytes), List.replicate 33 0x7F#8, [0x01, 0x00, 0x80], [0x01, 0x00, 0x8A], [0x01, 0x00, 0x87]],
      (Instr.hostUnrecognised f).wellFormed tc = false := by decide

theorem test_wellFormed_refuses_replies_that_do_not_count :
    (Instr.slaveStatusReply 0x00 0x01).wellFormed tc = false ∧ (Instr.slaveStatusReply 0x20 0x01).wellFormed tc = false ∧
    (Instr.slaveStatusReply 0x05 0x00).wellFormed tc = false := by decide

theorem test_wellFormed_refuses_shapes :
    ∀ f ∈ [([] : Bytes), List.replicate 9 0#8, [0x90, 0x05, 0x01]], (Instr.slaveIgnoredShape f).wellFormed tc = false := by decide

theorem test_wellFormed_refuses_ignored_values_that_count : (Instr.slaveIgnoredValue 0x1F 0x01).wellFormed tc = false := by decide

theorem test_wellFormed_refuses_selectors :
    ∀ i ∈ [Instr.effJobStart 2 0 0, .effJobStopInd 2 0, .effJobStopAll 255, .effJobRemoveExcept 2 0 0, .effBcastReq 2],
      i.wellFormed tc = false := by decide

theorem test_wellFormed_refuses_effect_codes_in_use : ∀ c ∈ effectCodes, (Instr.reservedEffect c).wellFormed tc = false := by decide

/-! ## Decoding: words written out from 30_encoding.md, one for each constructor -/

/-- R50, R65: the port words, bit by bit as OP, RES, DATA; W1 to W10 of 95_test_vectors.md. -/
theorem test_decode_port_words :
    read (decodePort .tickSrc 0b0001_0000_00000000#16) = some .tick ∧
    read (decodePort .hostRx 0b0010_0000_00100111#16) = some (.hrx 0x27) ∧
    read (decodePort .slaveRx 0b0011_0000_00010110#16) = some (.srx 0x16) ∧
    read (decodePort .button 0b0100_0000_00000100#16) = some (.btn 0x04) ∧
    read (decodePort .consumer 0b0101_0000_00000000#16) = some .slqPop ∧
    read (decodePort .consumer 0b0110_0000_00000000#16) = some .pxqPop ∧
    read (decodePort .consumer 0b0111_0000_00000000#16) = some .stPeek ∧
    read (decodePort .consumer 0b1000_0000_00000000#16) = some .stSent ∧
    read (decodePort .consumer 0b1001_0000_00000000#16) = some .slqDrops ∧
    read (decodePort .consumer 0b1010_0000_00000000#16) = some .pxqDrops := by decide

/-- R50, R52: the reserved values of `OP`, from any agent; W11 and W12. -/
theorem test_decode_reserved_words :
    read (decodePort .button 0b0000_0000_00000000#16) = some (.reservedOp0 0) ∧
    read (decodePort .consumer 0b1011_0000_00000000#16) = some (.reservedOpB 0) ∧
    read (decodePort .tickSrc 0b1100_0001_00000010#16) = some (.reservedOpC 0x102) ∧
    read (decodePort .hostRx 0b1101_0000_00000001#16) = some (.reservedOpD 0x001) ∧
    read (decodePort .slaveRx 0b1110_1111_00000000#16) = some (.reservedOpE 0xF00) ∧
    read (decodePort .consumer 0b1111_0000_11111111#16) = some (.reservedOpF 0x0FF) := by decide

/-- R52: W13 to W16, refused by name. -/
theorem test_decode_illegal_words :
    decodePort .tickSrc 0x1001#16 = .error .nonzeroData ∧ decodePort .hostRx 0x2127#16 = .error .nonzeroRes ∧
    decodePort .hostRx 0x5000#16 = .error .wrongAgent ∧ decodePort .consumer 0x1000#16 = .error .wrongAgent := ⟨rfl, rfl, rfl, rfl⟩

/-- R54: host frames in the codes of TC, from START to END. -/
theorem test_decode_host_frames :
    read (decode tc (.hostFrame [0x27, 0x03, 0x01, 0x00, 0x80, 0x16])) = some (.scPoll 0x01 0x00 []) ∧
    read (decode tc (.hostFrame [0x27, 0x07, 0x01, 0x00, 0x81, 0x01, 0x00, 0x05, 0x07, 0x16])) =
      some (.scLedCtrl 0x01 0x00 [0x01, 0x00, 0x05, 0x07]) ∧
    read (decode tc (.hostFrame [0x27, 0x03, 0x01, 0x00, 0x82, 0x16])) = some (.scOneshotLedReset 0x01 0x00 []) ∧
    read (decode tc (.hostFrame [0x27, 0x04, 0x01, 0x02, 0x83, 0x00, 0x16])) = some (.scMapUpload 0x01 0x02 [0x00]) ∧
    read (decode tc (.hostFrame [0x27, 0x03, 0x01, 0x00, 0x84, 0x16])) = some (.scLedReset 0x01 0x00 []) ∧
    read (decode tc (.hostFrame [0x27, 0x04, 0x01, 0x00, 0x86, 0x01, 0x16])) = some (.scRelaySet 0x01 0x00 [0x01]) ∧
    read (decode tc (.hostFrame [0x27, 0x03, 0x01, 0x00, 0x88, 0x16])) = some (.scBtnReset 0x01 0x00 []) ∧
    read (decode tc (.hostFrame [0x27, 0x04, 0x01, 0x00, 0x89, 0x0F, 0x16])) = some (.scPxMask 0x01 0x00 [0x0F]) ∧
    read (decode tc (.hostFrame [0x27, 0x03, 0x01, 0x00, 0x87, 0x16])) = some (.scStatusReplyReceived 0x01 0x00 []) ∧
    read (decode tc (.hostFrame [0x27, 0x03, 0x01, 0x00, 0x7F, 0x16])) = some (.hostUnrecognised [0x01, 0x00, 0x7F]) ∧
    read (decode tc (.hostFrame [0x27, 0x02, 0x01, 0x00, 0x16])) = some (.hostUnrecognised [0x01, 0x00]) := by decide

/-- R54, R61, R82, R84: frames that are none, refused by name. -/
theorem test_decode_malformed_frames :
    decode tc (.hostFrame [0x26, 0x01, 0x00, 0x16]) = .error .badStart ∧
    decode tc (.hostFrame [0x27, 0x00, 0x16]) = .error .badLength ∧ decode tc (.hostFrame [0x27, 0x21, 0x16]) = .error .badLength ∧
    decode tc (.hostFrame [0x27, 0x02, 0x00, 0x16]) = .error .badSize ∧
    decode tc (.hostFrame [0x27, 0x01, 0x00, 0x17]) = .error .badEnd ∧
    decode tc (.hostFrame [0x27, 0x03, 0x01, 0x00, 0x8A, 0x16]) = .error (.furtherCode 0x8A) :=
  ⟨rfl, rfl, rfl, rfl, rfl, rfl⟩

/-- R56: slave frames. -/
theorem test_decode_slave_frames :
    read (decode tc (.slaveFrame [0x27, 0x03, 0x90, 0x1F, 0x02, 0x16])) = some (.slaveStatusReply 0x1F 0x02) ∧
    read (decode tc (.slaveFrame [0x27, 0x03, 0x91, 0x05, 0x01, 0x16])) = some (.slaveIgnoredShape [0x91, 0x05, 0x01]) ∧
    read (decode tc (.slaveFrame [0x27, 0x04, 0x90, 0x05, 0x01, 0x00, 0x16])) = some (.slaveIgnoredShape [0x90, 0x05, 0x01, 0x00]) ∧
    read (decode tc (.slaveFrame [0x27, 0x03, 0x90, 0x20, 0x01, 0x16])) = some (.slaveIgnoredValue 0x20 0x01) := by decide

/-- R57 in the model's request form (log 11) and R59 by its service code (log 12). -/
theorem test_decode_frames_sent :
    read (decode tc (.slaveLink [0x85, 0x01, 0x05, 0x07])) = some (.slaveLinkFrameSent (.led 0x05 0x07)) ∧
    read (decode tc (.slaveLink [0x85, 0x00, 0x00, 0x00])) = some (.slaveLinkFrameSent .off) ∧
    read (decode tc (.slaveLink [0x84, 0x00, 0x00, 0x00])) = none ∧
    read (decode tc (.statusFrame 0x87)) = some .statusFrameSent ∧ read (decode tc (.statusFrame 0x86)) = none := by decide

/-- R63: the effect codes. -/
theorem test_decode_effects :
    read (decodeEffect { code := 0x01, bytes := [0x00] }) = some (.effMapUpload [0x00]) ∧
    read (decodeEffect { code := 0x02, tbl := 1, target := 5, ind := 7 }) = some (.effJobStart 1 5 7) ∧
    read (decodeEffect { code := 0x03, tbl := 0, ind := 7 }) = some (.effJobStopInd 0 7) ∧
    read (decodeEffect { code := 0x04, tbl := 1 }) = some (.effJobStopAll 1) ∧
    read (decodeEffect { code := 0x05, tbl := 0, target := 5, ind := 9 }) = some (.effJobRemoveExcept 0 5 9) ∧
    read (decodeEffect { code := 0x06, tbl := 1 }) = some (.effBcastReq 1) ∧
    read (decodeEffect { code := 0x07, all := true, mask := 0x20 }) = some (.effOneshotSet true 0x20) ∧
    read (decodeEffect { code := 0x08, mask := 0x1020 }) = some (.effForceSet 0x1020) ∧
    read (decodeEffect { code := 0x09, bytes := [0x01] }) = some (.effRelaySet [0x01]) ∧
    read (decodeEffect { code := 0x0A }) = some .effBtnReset ∧
    read (decodeEffect { code := 0x0B, bytes := [0x0F] }) = some (.effPxMask [0x0F]) ∧
    read (decodeEffect { code := 0x0C }) = some (.reservedEffect 0x0C) ∧ read (decodeEffect { code := 0x06, tbl := 2 }) = none := by
  decide

/-! ## One step: the port (95_test_vectors.md 3.1) and `TICK` (3.2) -/

/-- W11: a reserved `OP` is answered `ILLEGAL` and changes nothing. -/
theorem test_step_reserved_word :
    got (step (presenting .button 0x0000)) id = some { State.reset with issuer := .button, obs := [.resp .button .illegal] } := by
  decide

/-- W15: another agent's word. -/
theorem test_step_wrong_agent : got (step (presenting .hostRx 0x5000)) (fun t => t.obs) = some [.resp .hostRx .illegal] := by
  decide

/-- Each of the other reserved values of `OP`. -/
theorem test_exec_reserved_words :
    ∀ i ∈ [Instr.reservedOp0 0, .reservedOpB 0, .reservedOpC 1, .reservedOpD 2, .reservedOpE 3, .reservedOpF 0x0FF],
      got (exec i State.reset) (fun t => t.obs) = some [.resp .consumer .illegal] := by decide

/-- T1. -/
theorem test_tick_after_reset :
    got (step (presenting .tickSrc 0x1000)) (fun t => (t.tick, t.slq, t.obs)) =
      some (1, State.reset.slq, [.event .pxRequestFlush, .resp .tickSrc .ack]) := by decide

/-- T11: the job is emitted, the poll is not. -/
theorem test_tick_emits_a_due_job :
    got (exec .tick (mapped [0x05] { State.reset with slj := ⟨[job 5 7 1, noJob, noJob], 0⟩ }))
      (fun t => (t.slq.unread 8, t.slj.slots.map (fun k => k.next), t.ledActive, t.pollCur)) =
      some ([[0x27, 0x04, 0x02, 0x05, 0x85, 0x07, 0x16]], [2, 0, 0], true, 0) := by decide

/-! ## Parsers (3.3) -/

/-- X6: a frame of two bytes sets `last_activity` and no more. -/
theorem test_hrx_short_frame :
    got (exec (.hrx 0x16) (hostCollected [0x01, 0x00] { State.reset with tick := 9 })) (fun t => (t.lastActivity, t.stLen, t.hp.state)) =
      some (9, 0, .waitStart) := by decide

/-- X9: the build of a poll. -/
theorem test_hrx_poll_builds :
    got (exec (.hrx 0x16) (hostCollected [0x01, 0x00, 0x80] State.reset)) (fun t => t.stBuf.take t.stLen) =
      some (tcStatus 0x00 0x00 0x00 0x00 0x00) := by decide

/-- X4: a START where END was due starts nothing. -/
theorem test_srx_no_end :
    got (exec (.srx 0x27) (slaveCollected [0x90, 0x05, 0x01] State.reset)) (fun t => (t.sp.state, t.roundAlive)) =
      some (.waitStart, 0) := by decide

/-- X3: LEN 9 is above the capacity of 8; 8 is not. -/
theorem test_srx_length :
    got (exec (.srx 0x09) { State.reset with sp := { State.reset.sp with state := .waitLen } }) (fun t => t.sp.state) = some .waitStart ∧
    got (exec (.srx 0x08) { State.reset with sp := { State.reset.sp with state := .waitLen } }) (fun t => t.sp.state) = some .collect := by
  decide

/-! ## Slave frames (3.3) -/

/-- X15: address 31, the trigger sentinel. -/
theorem test_slave_reply_triggered :
    got (exec (.slaveStatusReply 0x1F 0x02) State.reset) (fun t => (t.roundAlive, t.roundTrig, t.alive)) =
      some (0x80000000, 0x80000000, 0) := by decide

/-- X16 and X17: a bit is cleared, and mirrored while a job is active. -/
theorem test_slave_reply_mirrored :
    got (exec (.slaveStatusReply 0x05 0x01)
        { State.reset with roundAlive := 0x20, roundTrig := 0x20, alive := 0x20, trig := 0x20, slj := ⟨[noJob, job 5 7 9, noJob], 0⟩ })
      (fun t => (t.roundAlive, t.roundTrig, t.alive, t.trig)) = some (0x20, 0, 0x20, 0) := by decide

/-- X10, X12, X13. -/
theorem test_slave_ignored :
    got (exec (.srx 0x16) (slaveCollected [0x90, 0x05, 0x01, 0x00] State.reset)) (fun t => t.roundAlive) = some 0 ∧
    got (exec (.srx 0x16) (slaveCollected [0x90, 0x20, 0x01] State.reset)) (fun t => t.roundAlive) = some 0 ∧
    got (exec (.srx 0x16) (slaveCollected [0x90, 0x05, 0x00] State.reset)) (fun t => t.roundAlive) = some 0 := by decide

/-! ## Transmit queues (3.4) -/

/-- R97's example. -/
theorem test_slqPop :
    got (exec .slqPop { State.reset with slq := holding 8 [[5], [12]] }) (fun t => (t.obs, t.slq.unread 8)) =
      some ([.resp .consumer (.frame [5])], [[12]]) := by decide

/-- Q3. -/
theorem test_pxqPop_empty :
    got (exec .pxqPop State.reset) id = some { State.reset with obs := [.resp .consumer .empty] } := by decide

/-- Q2 and Q5: the drop counter wraps; the head wraps. -/
theorem test_push_wraps :
    (match push .slqSlot 8 { holding 8 sevenFrames with drops := 0xFFFFFFFF } [8] with
      | .next r => some (r.1.drops, r.1.head, r.2) | _ => none) = some (0, 7, false) ∧
    (match push .slqSlot 8 { holding 8 sevenFrames with tail := 2 } [8] with
      | .next r => some (r.1.drops, r.1.head, r.2) | _ => none) = some (0, 0, true) := by decide

/-- Q1 and Q4. -/
theorem test_drops :
    got (exec .slqDrops { State.reset with slq := { State.reset.slq with drops := 1 } }) (fun t => t.obs) =
      some [.resp .consumer (.value 1)] ∧
    got (exec .pxqDrops State.reset) (fun t => t.obs) = some [.resp .consumer (.value 0)] := by decide

/-- R57, R69: an "off" frame is pushed. -/
theorem test_slave_link_frame_sent :
    got (exec (.slaveLinkFrameSent .off) State.reset) (fun t => t.slq.unread 8) = some [[0x27, 0x04, 0x02, 0x00, 0x85, 0x00, 0x16]] := by
  decide

/-! ## LED jobs (3.5) -/

/-- J1 and J2: the same job again, and a full table. -/
theorem test_job_start :
    got (exec (.effJobStart 0 5 7) { State.reset with slj := ⟨[noJob, job 5 7 3, noJob], 0⟩, tick := 10 }) (fun t => t.slj.slots) =
      some [noJob, job 5 7 3, noJob] ∧
    got (exec (.effJobStart 1 5 7) { State.reset with pxj := ⟨[job 1 1 1, noJob, noJob], 2⟩, tick := 10 }) (fun t => t.pxj) =
      some ⟨[job 1 1 1, job 5 7 10, noJob], 2⟩ := by decide

/-- J7. -/
theorem test_job_stop_ind :
    got (exec (.effJobStopInd 0 7) { State.reset with slj := ⟨[job 5 7 1, job 6 7 1, job 5 9 1], 1⟩ })
      (fun t => (t.slj.slots.map (fun k => k.active), t.slj.cur)) = some ([false, false, true], 1) := by decide

/-- J8. -/
theorem test_job_remove_except :
    got (exec (.effJobRemoveExcept 0 5 9) { State.reset with slj := ⟨[job 5 7 1, job 5 9 1, job 6 7 1], 1⟩ })
      (fun t => t.slj.slots.map (fun k => k.active)) = some [false, true, true] := by decide

/-- J10. -/
theorem test_job_stop_all :
    got (exec (.effJobStopAll 1) { State.reset with slj := ⟨[job 5 7 1, noJob, noJob], 0⟩, pxj := ⟨[job 5 7 1, job 5 9 1, noJob], 2⟩ })
      (fun t => (t.slj.slots.map (fun k => k.active), t.pxj.slots.map (fun k => k.active), t.pxj.cur)) =
      some ([true, false, false], [false, false, false], 2) := by decide

/-- J6: the edge of the signed difference. -/
theorem test_due : (job 5 7 1).isDue 0x80000001 = false ∧ (job 5 7 1).isDue 0x80000000 = true := by decide

/-! ## Status frame (3.6) -/

/-- F1 and F10. -/
theorem test_btn_builds :
    got (exec (.btn 0x01) (mapped [0x05, 0x0C] { State.reset with alive := 0x1020, trig := 0x1000, statusExt := 0x04 }))
      (fun t => (t.statusExt, t.stBuf.take t.stLen)) = some (0x05, tcStatus 0x05 0x02 0x03 0x00 0x00) := by decide

/-- F6: the force bit of a connector that is not triggered is cleared. -/
theorem test_build_clears_force :
    got (exec .statusFrameSent (mapped [0x05, 0x0C] { State.reset with alive := 0x1000, forceTrig := 0x1000 }))
      (fun t => (t.forceTrig, t.stBuf.take t.stLen)) = some (0, tcStatus 0x00 0x00 0x02 0x00 0x00) := by decide

/-- F7: the one-shot wins, and the force bits stay. -/
theorem test_build_oneshot_wins :
    got (exec .statusFrameSent (mapped [0x05, 0x0C] { State.reset with trig := 0x1000, forceTrig := 0x1000, oneshotAll := true }))
      (fun t => (t.forceTrig, t.oneshotAll, t.stBuf.take t.stLen)) = some (0x1000, false, tcStatus 0x00 0x01 0x01 0x00 0x00) := by
  decide

/-- F11 and F12. -/
theorem test_peek_and_sent :
    got (exec .stPeek { State.reset with stBuf := [1, 2, 3], stLen := 2 }) (fun t => (t.obs, t.stLen)) =
      some ([.resp .consumer (.frame [1, 2])], 2) ∧
    got (exec .stSent { State.reset with stLen := 12 }) (fun t => (t.obs, t.stLen)) = some ([.resp .consumer .ack], 0) := by
  decide

/-! ## Host frames and effects (3.7) -/

/-- E1 (S4) and E6: the entries that are active, in order; a lone byte at the end. -/
theorem test_map_upload :
    got (exec (.effMapUpload [0x03, 0x05, 0x01, 0x09, 0x00, 0x0C, 0x01]) State.reset) (fun t => (t.cfg, t.cfgCount)) =
      some ([0x05, 0x0C, 0x00, 0x00], 2) ∧
    got (exec (.scMapUpload 0x01 0x00 [0x02, 0x05, 0x01, 0x09]) State.reset) (fun t => (t.cfg, t.cfgCount)) =
      some ([0x05, 0x00, 0x00, 0x00], 1) := by decide

/-- E4: six active entries, `MAX_CFG = 4`. -/
theorem test_map_upload_capped :
    got (exec (.effMapUpload [6, 1, 1, 2, 1, 3, 1, 4, 1, 5, 1, 6, 1]) State.reset) (fun t => (t.cfg, t.cfgCount)) =
      some ([1, 2, 3, 4], 4) := by decide

/-- E7 and E8. -/
theorem test_relay_and_mask :
    got (exec (.scRelaySet 0x01 0x00 [0x01]) State.reset) (fun t => (t.obs, t.stLen)) = some ([.event (.relaySet [0x01])], 12) ∧
    got (exec (.scPxMask 0x01 0x00 [0x0F]) State.reset) (fun t => (t.obs, t.stLen)) = some ([.event (.pxSetMask [0x0F])], 12) := by
  decide

/-- E9 and E10. -/
theorem test_btn_reset_and_led_reset :
    got (exec (.scBtnReset 0x01 0x00 []) { State.reset with statusExt := 0x04 }) (fun t => (t.statusExt, t.stBuf[5]?)) =
      some (0x00, some 0x00) ∧
    got (exec (.scLedReset 0x01 0x00 []) { State.reset with slj := ⟨[job 5 7 1, noJob, noJob], 0⟩ })
      (fun t => (t.slj.anyActive, t.bcastPendSl, t.bcastPendPx)) = some (false, true, true) := by decide

/-- E11: the one-shot of a frame is consumed by that frame's build. -/
theorem test_oneshot_frame :
    got (exec (.scOneshotLedReset 0x01 0x00 [0x01, 0, 0, 0, 0]) (mapped [0x05] State.reset)) (fun t => (t.oneshotAll, t.stBuf[6]?)) =
      some (false, some 0x01) := by decide

/-- J9: the "switch indicator" sequence, its second frame. -/
theorem test_led_ctrl_switch :
    got (exec (.scLedCtrl 0x01 0x00 [0x02, 0x00, 0x05, 0x09]) { State.reset with slj := ⟨[job 5 7 0, noJob, noJob], 0⟩ })
      (fun t => t.slj.slots.map (fun k => (k.target, k.ind, k.active))) =
      some [(5, 7, false), (5, 9, true), (0, 0, false)] := by decide

/-- X7 and X8. -/
theorem test_host_unrecognised :
    got (exec (.hostUnrecognised [0x01, 0x00, 0x7F]) { State.reset with tick := 3 }) id =
      some { State.reset with tick := 3, lastActivity := 3 } ∧
    got (exec (.hrx 0x16) (hostCollected [0x01, 0x00, 0x87] { State.reset with tick := 3 })) (fun t => (t.lastActivity, t.stLen)) =
      some (3, 0) := by decide

/-- E12: a further code of the domain, run by `HRX`; the build clears the bits of connectors that are not triggered. -/
theorem test_hrx_further_code :
    got (exec (.hrx 0x16) (hostCollected [0x01, 0x00, 0x8A, 0x20, 0x10, 0x00, 0x00]
        (mapped [0x05, 0x0C] { State.reset with alive := 0x1020, trig := 0x1000 }))) (fun t => t.forceTrig) = some 0x1000 := by
  decide

/-- R133 to R135, R137: the plain effects. -/
theorem test_plain_effects :
    got (exec (.effBcastReq 1) State.reset) (fun t => (t.bcastPendSl, t.bcastPendPx)) = some (false, true) ∧
    got (exec (.effOneshotSet false 0x20) { State.reset with oneshotAll := true, oneshotMask := 0x1000 })
      (fun t => (t.oneshotAll, t.oneshotMask)) = some (false, 0x20) ∧
    got (exec (.effForceSet 0x20) { State.reset with forceTrig := 0x1000 }) (fun t => t.forceTrig) = some 0x20 ∧
    got (exec .effBtnReset { State.reset with statusExt := 0xFF }) (fun t => t.statusExt) = some 0 := by decide

/-- R136, R138. -/
theorem test_event_effects :
    got (exec (.effRelaySet [0x01]) State.reset) (fun t => t.obs) = some [.event (.relaySet [0x01])] ∧
    got (exec (.effPxMask [0x0F]) State.reset) (fun t => t.obs) = some [.event (.pxSetMask [0x0F])] := by decide

/-- R63: a reserved code. -/
theorem test_reserved_effect : refusal (exec (.reservedEffect 0x0C) State.reset) = some (.reservedEffectCode 0x0C) := by decide

/-- R63 with the row presented after reset: its configuration is refused. -/
theorem test_reserved_effect_presented :
    refusal (step (State.reset.withFetchWord 8 0x0C)) = some .illFormedConfig ∧
    isNext (step (State.reset.withFetchWord 8 0x07)) = true ∧ isNext (step (State.reset.withFetchWord 8 0x85)) = true := by
  decide

/-- R154. -/
theorem test_rst :
    got (step { State.reset with port := [.rst], tick := 7, statusExt := 0x04 }) (fun t => (t.tick, t.statusExt, t.obs)) = some (0, 0, []) := by
  decide

/-! ## Witnesses: what meets the hypotheses of each statement that has some -/

/-- A state with something in every part: a map, jobs of both tables, frames in both queues, pending broadcasts, masks, a status frame. -/
def busy : State :=
  mapped [0x05, 0x0C] { State.reset with
    tick := 10, lastActivity := 8, pollCur := 1, roundAlive := 0x1020, roundTrig := 0x20, alive := 0x1000, trig := 0x1000
    oneshotMask := 0x20, forceTrig := 0x1000, statusExt := 0x04, stLen := 12, bcastPendSl := true, bcastPendPx := true
    slq := holding 8 [[1], [2, 3]], pxq := holding 8 sevenFrames
    slj := ⟨[job 5 7 10, noJob, job 6 7 11], 1⟩, pxj := ⟨[noJob, job 3 2 0, job 1 1 9], 2⟩ }

/-- `State.Inv` as a check that runs. -/
def checkInv (s : State) : Bool := decide s.Inv

theorem inv_of_check {s : State} (h : checkInv s = true) : s.Inv := of_decide_eq_true h

theorem busy_inv : busy.Inv := inv_of_check (by decide)

theorem reset_inv : State.reset.Inv := inv_of_check (by decide)

theorem witness_inv : State.reset.Inv ∧ busy.Inv := ⟨reset_inv, busy_inv⟩

theorem witness_DecodeEncodeAgree :
    tc.ok = true ∧ (Instr.hrx 0xFF).wellFormed tc = true ∧ (Instr.scPoll 1 0 (List.replicate 29 0#8)).wellFormed tc = true ∧
    (Instr.hostUnrecognised [0x7F]).wellFormed tc = true ∧ (Instr.slaveStatusReply 0x1F 0x02).wellFormed tc = true ∧
    (Instr.effJobStart 1 0 0).wellFormed tc = true ∧ (Instr.reservedEffect 0x0C).wellFormed tc = true := by decide

theorem witness_PortWordsRunOrAreRefused :
    (presenting .consumer 0xA000).params.ok = true ∧ (presenting .consumer 0xA000).port = .word .consumer 0xA000 :: [] ∧
    illegalWord .consumer 0xA000 = false ∧ illegalWord .consumer 0xB000 = true ∧ illegalWord .hostRx 0xA000 = true := by decide

theorem witness_StepRunsTheDecodedInstruction :
    (presenting .hostRx 0x2027).params.ok = true ∧ (presenting .hostRx 0x2027).port = .word .hostRx 0x2027 :: [] ∧
    decodePort .hostRx 0x2027 = .ok (.hrx 0x27) := ⟨by decide, rfl, rfl⟩

theorem witness_StepWithoutInputHoldsState : State.reset.params.ok = true ∧ State.reset.port = [] := by decide

theorem witness_EffectRecordsRunTheirRow : decodeEffect { code := 0x06, tbl := 1 } = .ok (.effBcastReq 1) := rfl

theorem witness_CompletedFramesRunTheirRow : decodeHost State.reset.params [0x01, 0x00, 0x80] = .ok (.scPoll 0x01 0x00 []) := rfl

/-- Each parser state, and in `COLLECT` the last byte and one before it. -/
theorem witness_ParserBytesBeforeEnd :
    let at' (st : ParserState) (idx : Byte) : State :=
      { State.reset with
        hp := { state := st, len := 2, idx := idx, buf := List.replicate 32 0#8 }
        sp := { state := st, len := 2, idx := idx, buf := List.replicate 8 0#8 } }
    (at' .waitStart 0).BoundsOk ∧ (at' .waitLen 2).BoundsOk ∧ (at' .collect 0).BoundsOk ∧ (at' .collect 1).BoundsOk :=
  ⟨(inv_of_check (by decide)).2.1, (inv_of_check (by decide)).2.1, (inv_of_check (by decide)).2.1, (inv_of_check (by decide)).2.1⟩

theorem witness_ParserByteAtEnd :
    (hostCollected [0x01] (slaveCollected [0x90, 0x05, 0x01] State.reset)).Inv ∧
    (hostCollected (List.replicate 32 0#8) (slaveCollected (List.replicate 8 0#8) State.reset)).Inv :=
  ⟨inv_of_check (by decide), inv_of_check (by decide)⟩

/-- A content of one byte, and one as long as the capacity; START and END among the bytes. -/
theorem witness_ParserTakesAnyContent :
    let p := Parser.reset 8
    p.state = .waitStart ∧ p.buf.length = 8 ∧
    ∀ f ∈ [[0x27#8], [0x27#8, 0x16#8, 0, 0, 0, 0, 0, 0x16#8]], 1 ≤ f.length ∧ f.length ≤ 8 := by decide

theorem witness_ParsersShareNoState :
    (∃ t, exec (.hrx 0x27) State.reset = .next t) ∧ ∃ t, exec (.srx 0x16) (slaveCollected [0x90, 0x05, 0x01] State.reset) = .next t :=
  ⟨exists_next (by decide), exists_next (by decide)⟩

theorem witness_SlaveReplyUpdatesMasks : 1 ≤ (0x01#8).toNat ∧ (0x1F#8).toNat ≤ 31 ∧ (0x01#8) ≠ 0#8 ∧ tc.trigSentinel ≠ 0#8 := by decide

theorem witness_SlaveFramesAreRepliesOrIgnored :
    (1 ≤ (0x1F#8).toNat ∧ (0x1F#8).toNat ≤ 31 ∧ (0x02#8) ≠ 0#8) ∧
    (∀ f ∈ [([] : Bytes), [0x91, 0x05, 0x01], [0x90, 0x05, 0x01, 0x00]], ¬ (f.length = 3 ∧ f[0]? = some tc.scSlaveStatus)) ∧
    ((0x00#8).toNat < 1 ∨ 31 < (0x00#8).toNat ∨ (0x01#8) = 0#8) ∧ ((0x20#8).toNat < 1 ∨ 31 < (0x20#8).toNat ∨ (0x01#8) = 0#8) := by
  decide

theorem witness_HostFramesFollowTheirServiceCode :
    ([0x01, 0x00] : Bytes).length < 3 ∧ ¬ tc.InDom 0x87 ∧ tc.InDom 0x8A ∧ tc.InDom 0x80 := by decide

theorem witness_NamedHostFramesApplyTheirListAndBuild :
    busy.Inv ∧ (tc.dispatch tc.scLedReset 1 0 []).map List.length = some 4 := ⟨busy_inv, by decide⟩

theorem witness_DispatchListsObeyTheirTable :
    tc.ok = true ∧ tc.dispatch tc.scRelaySet 1 0 [0x01] = some [{ code := 0x09, bytes := [0x01] }] ∧
    tc.dispatch tc.scLedCtrl 1 0 [3, 1, 0, 7] = some [{ code := 0x03, tbl := 1, ind := 7 }] := by decide

theorem witness_UnrecognisedHostFramesOnlyNoteActivity :
    ([0x01, 0x80] : Bytes).length < 3 ∧ ([0x01, 0x00, 0x7F] : Bytes)[2]? = some 0x7F ∧ ¬ tc.InDom 0x7F ∧ ¬ tc.InDom 0x87 := by decide

theorem witness_bounds : State.reset.BoundsOk ∧ busy.BoundsOk := ⟨reset_inv.2.1, busy_inv.2.1⟩

/-- An identical job; the first slot, and the last, free; no slot free. -/
theorem witness_JobStartFillsTheFirstFreeSlot :
    (∃ k ∈ (busy.table 0).slots, k.active = true ∧ k.target = 5 ∧ k.ind = 7) ∧
    ¬ (∃ k ∈ (busy.table 1).slots, k.active = true ∧ k.target = 5 ∧ k.ind = 7) ∧
    ((busy.table 1).slots[0]?).map (fun k => k.active) = some false ∧
    (([job 5 7 1, job 5 8 1, noJob] : List Job)[2]?).map (fun k => k.active) = some false ∧
    ∀ k ∈ [job 5 7 1, job 5 8 1, job 5 9 1], k.active = true := by decide

theorem witness_IllFormedEffectsAreRefused : (2#8) ≠ 0#8 ∧ (2#8) ≠ 1#8 := by decide

/-- An empty queue and one that is not, for both. -/
theorem witness_PopsTakeTheOldestFrame :
    State.reset.BoundsOk ∧ State.reset.slq.head = State.reset.slq.tail ∧ State.reset.pxq.head = State.reset.pxq.tail ∧
    busy.BoundsOk ∧ busy.slq.head ≠ busy.slq.tail ∧ busy.pxq.head ≠ busy.pxq.tail :=
  ⟨reset_inv.2.1, by decide, by decide, busy_inv.2.1, by decide, by decide⟩

/-- A full queue, and one with room for one frame more. -/
theorem witness_RingIsABoundedFifo :
    (holding 8 sevenFrames).BoundsOk 8 8 ∧ (holding 8 sevenFrames).count 8 = 8 - 1 ∧
    (holding 8 (sevenFrames.take 6)).BoundsOk 8 8 ∧ (holding 8 (sevenFrames.take 6)).count 8 < 8 - 1 := by decide

theorem witness_RingKeepsOrderUpToCapacity :
    let q : Queue := { holding 8 [] with head := 5, tail := 5 }
    2 ≤ 8 ∧ q.BoundsOk 8 8 ∧ q.head = q.tail ∧ sevenFrames.length = 8 - 1 := by decide

/-- No due slot; the slot at the cursor due; only the slot before the cursor due, which the scan reaches last. -/
theorem witness_EmitOneTakesTheFirstDueSlot :
    (⟨[job 5 7 10, noJob, job 6 7 10], 1⟩ : JobTable).BoundsOk 3 ∧ (holding 8 sevenFrames).head < (holding 8 sevenFrames).slot.length ∧
    (∀ k ∈ [job 5 7 10, noJob, job 6 7 10], ¬ (k.active = true ∧ 0 ≤ sdiff32 9#32 k.next)) ∧
    ((job 6 7 10).active = true ∧ 0 ≤ sdiff32 10#32 (job 6 7 10).next) ∧
    ∀ o < 2, ∀ k, [job 5 7 10, noJob, noJob][(1 + o) % 3]? = some k → ¬ (k.active = true ∧ 0 ≤ sdiff32 10#32 k.next) := by
  refine ⟨by decide, by decide, by decide, by decide, fun o ho k hk => ?_⟩
  have : k = noJob := by
    obtain rfl | rfl : o = 0 ∨ o = 1 := by omega
    · simpa using hk.symm
    · simpa using hk.symm
  subst this
  decide

/-- S3: three active jobs, all due; a queue with room for their frames, and a full one. The order begins at the cursor. -/
theorem witness_EmissionIsFair :
    let j : JobTable := ⟨[job 5 7 10, job 6 7 10, job 7 7 10], 1⟩
    j.BoundsOk 3 ∧ 2 ≤ 8 ∧ (holding 8 (sevenFrames.take 4)).BoundsOk 8 8 ∧ (holding 8 sevenFrames).BoundsOk 8 8 ∧
    (∀ k ∈ j.slots, k.active = true → 0 ≤ sdiff32 10#32 k.next) ∧ j.activeSlots 3 = [1, 2, 0] := by decide

/-- Two active jobs and a free slot between them; one has waited as long as the bound allows; four ticks with a full queue. -/
theorem witness_EmissionIsCyclicOverTicks :
    let j : JobTable := ⟨[job 5 7 10, noJob, job 7 7 0x80000014], 1⟩
    j.BoundsOk 3 ∧ j.activeSlots 3 = [2, 0] ∧
    (∀ q' ∈ holding 8 [] :: List.replicate 4 (holding 8 sevenFrames), q'.head < q'.slot.length) ∧
    ∀ k ∈ j.slots, k.active = true → 0 ≤ sdiff32 18#32 k.next ∧ sdiff32 18#32 k.next + (j.activeSlots 3).length ≤ 2 ^ 31 := by decide

theorem witness_EmittedJobWaitsOneTick : (job 5 7 0).active = true ∧ (job 5 7 0).next = 0xFFFFFFFF#32 + 1#32 := by decide

theorem witness_TickServesBroadcastsFirst : busy.BoundsOk ∧ busy.bcastPendSl = true ∧ busy.bcastPendPx = true :=
  ⟨busy_inv.2.1, rfl, rfl⟩

/-- The first tick of the idle window and the last (T2, T6). -/
theorem witness_IdleTickSkipsTheRest :
    State.reset.bcastPendSl = false ∧ State.reset.bcastPendPx = false ∧
    (State.reset.params.idleTicks : Int) ≤ sdiff32 (4#32 + 1#32) 0#32 ∧
    (State.reset.params.idleTicks : Int) ≤ sdiff32 (0x7FFFFFFE#32 + 1#32) 0#32 := by decide

/-- Two idle ticks from `tick = 4`. -/
theorem witness_IdleEpisodeClearsThePixelBufferOnce :
    let s : State := { State.reset with tick := 4, port := List.replicate 2 (.word .tickSrc 0x1000#16) }
    s.Inv ∧ s.port = List.replicate 2 (.word .tickSrc 0x1000#16) ∧
    ∀ i : Nat, 1 ≤ i → i ≤ 2 → (s.params.idleTicks : Int) ≤ sdiff32 (s.tick + BitVec.ofNat 32 i) s.lastActivity := by
  refine ⟨inv_of_check (by decide), rfl, fun i h1 h2 => ?_⟩
  obtain rfl | rfl : i = 1 ∨ i = 2 := by omega
  · decide
  · decide

/-- `busy` with no broadcast pending: its first job is due at the next tick. -/
def calm : State := { busy with bcastPendSl := false, bcastPendPx := false }

/-- `calm` with no slave-link job. -/
def jobless : State := { calm with slj := State.reset.slj }

/-- `EmitOne` on the slave-link channel at the next tick reports an emission. -/
def emits (s : State) : Option Bool :=
  match emitOne .sljSlot .slqSlot s.params.slJobs s.params.slSlots s.params.slLed (s.tick + 1#32) s.slj s.slq with
  | .next e => some e.emitted
  | _ => none

/-- The hypotheses of `ActiveTickTakesOneBranch`. -/
def activeHyps (s : State) : Prop :=
  s.Inv ∧ s.bcastPendSl = false ∧ s.bcastPendPx = false ∧ sdiff32 (s.tick + 1#32) s.lastActivity < (s.params.idleTicks : Int)

/-- The four branches: a due job; `led_active` with none due; an empty map; a poll, at the cursor, at zero and past the map. -/
theorem witness_ActiveTickTakesOneBranch :
    (activeHyps calm ∧ emits calm = some true) ∧
    (activeHyps { jobless with ledActive := true } ∧ emits { jobless with ledActive := true } = some false) ∧
    (activeHyps { jobless with cfgCount := 0 } ∧ emits { jobless with cfgCount := 0 } = some false) ∧
    (activeHyps jobless ∧ emits jobless = some false) ∧
    activeHyps { jobless with pollCur := 0 } ∧ activeHyps { jobless with pollCur := 2 } :=
  ⟨⟨⟨inv_of_check (by decide), rfl, rfl, by decide⟩, by decide⟩, ⟨⟨inv_of_check (by decide), rfl, rfl, by decide⟩, by decide⟩,
   ⟨⟨inv_of_check (by decide), rfl, rfl, by decide⟩, by decide⟩, ⟨⟨inv_of_check (by decide), rfl, rfl, by decide⟩, by decide⟩,
   ⟨inv_of_check (by decide), rfl, rfl, by decide⟩, ⟨inv_of_check (by decide), rfl, rfl, by decide⟩⟩

/-- A tick that is not idle, and an idle one; both broadcasts are pending. -/
theorem witness_TickPushesAtMostTwoFrames :
    busy.Inv ∧ { busy with tick := 20 }.Inv ∧
    (busy.params.idleTicks : Int) ≤ sdiff32 ((20 : U32) + 1#32) busy.lastActivity :=
  ⟨busy_inv, inv_of_check (by decide), by decide⟩

/-- F2: a slot one byte too small, and one exactly large enough. -/
theorem witness_OversizeBuildChangesNothing :
    11 < 7 + tc.maxCfg + tc.trailer.length ∧ 7 + tc.maxCfg + tc.trailer.length ≤ 12 ∧
    ({ State.reset with params := { tc with statusBufCap := 12 }, stBuf := List.replicate 12 0#8 } : State).BoundsOk :=
  ⟨by decide, by decide, (inv_of_check (by decide)).2.1⟩

theorem witness_BuildStoresTheResolvedFrame :
    busy.BoundsOk ∧ 7 + busy.params.maxCfg + busy.params.trailer.length ≤ busy.params.statusBufCap :=
  ⟨busy_inv.2.1, by decide⟩

theorem witness_OneshotIsConsumedOnce :
    let s : State := { busy with oneshotAll := true }
    s.BoundsOk ∧ 7 + s.params.maxCfg + s.params.trailer.length ≤ s.params.statusBufCap ∧ s.oneshotAll = true ∧ 0 < s.cfgCount :=
  ⟨(inv_of_check (by decide)).2.1, by decide, rfl, by decide⟩

theorem witness_PeekReadsTheSlot : State.reset.BoundsOk ∧ State.reset.stLen = 0 ∧ busy.BoundsOk ∧ busy.stLen ≠ 0 :=
  ⟨reset_inv.2.1, rfl, busy_inv.2.1, by decide⟩

theorem witness_StepNeverStops : { busy with port := [.word .tickSrc 0x1000, .rst, .word .hostRx 0xFFFF] }.Inv :=
  inv_of_check (by decide)

theorem witness_ResetInputGivesTheResetValues :
    let s : State := { busy with port := .rst :: [] }
    s.params.ok = true ∧ s.port = .rst :: [] := by decide

/-- A step for the invariants, from a state that meets them. -/
theorem witness_step :
    let s : State := { busy with port := [.word .tickSrc 0x1000] }
    s.TrigWithinAlive ∧ s.BitZeroClear ∧ s.JobsUnique ∧ ∃ t, step s = .next t := ⟨by decide, by decide, by decide, exists_next (by decide)⟩

theorem witness_InputsAreTakenInOrder :
    ∃ t, Host.Core.run core 2 { State.reset with port := [.word .tickSrc 0x1000, .word .consumer 0x5000, .rst] } = .next t :=
  exists_next (α := State) (by decide)

/-- TC with one row of `DISPATCH`. -/
def tcRow (sc code tbl : Byte) : Params := { tc with dispatchRows := [{ sc := sc, effects := [{ code := code, tbl := tbl }] }] }

/-- A configuration for each condition on `DISPATCH` and its domain, which breaks it: reserved codes, a selector outside 0..1, a code
that the table of R125 does not allow, codes that are not distinct, `SC_STATUS_REPLY` in the domain, rows that may not stand. -/
theorem witness_IllFormedDispatchIsRefused :
    (∀ code ∈ [0x00#8, 0x0C#8, 0xFF#8], (tcRow 0x8A code 0).dispatch 0x8A 0 0 [] = some [{ code := code }] ∧
      (code = 0x00#8 ∨ 0x0C ≤ code.toNat)) ∧
    (tcRow 0x8A 0x06 2).dispatch 0x8A 0 0 [] = some [{ code := 0x06, tbl := 2 }] ∧
    (tcRow tc.scLedCtrl 0x07 0).dispatch tc.scLedCtrl 0 0 [] = some [{ code := 0x07 }] ∧
    (tcRow tc.scOneshotLedReset 0x02 0).dispatch tc.scOneshotLedReset 0 0 [] = some [{ code := 0x02 }] ∧
    (tcRow tc.scLedReset 0x02 0).dispatch tc.scLedReset 0 0 [] = some [{ code := 0x02 }] ∧
    (tcRow tc.scRelaySet 0x0A 0).dispatch tc.scRelaySet 0 0 [] = some [{ code := 0x0A }] ∧
    (tcRow tc.scBtnReset 0x0B 0).dispatch tc.scBtnReset 0 0 [] = some [{ code := 0x0B }] ∧
    (tcRow tc.scPxMask 0x09 0).dispatch tc.scPxMask 0 0 [] = some [{ code := 0x09 }] ∧
    ¬ ({ tc with scPxMask := tc.scPoll } : Params).namedCodes.Nodup ∧
    tc.scStatusReply ∈ ({ tc with furtherCodes := [0x87] } : Params).furtherCodes ∧
    ¬ (tcRow 0x87 0x0A 0).InDom 0x87 :=
  ⟨by decide, rfl, rfl, rfl, rfl, rfl, rfl, rfl, by decide, by decide, by decide⟩

/-- A record that R125's table does not allow makes the configuration ill-formed; one that it allows does not. -/
theorem test_dispatch_condition : (tcRow 0x86 0x0A 0).ok = false ∧ (tcRow 0x86 0x09 0).ok = true := by decide +kernel

/-- A configuration for each condition of R8, which breaks it. -/
theorem witness_IllFormedConfigurationIsRefused :
    ¬ (1 ≤ ({ tc with maxCfg := 0 } : Params).maxCfg) ∧ ¬ (4 + ({ tc with maxCfg := 251 } : Params).maxCfg + tc.trailer.length ≤ 255) ∧
    ¬ (1 ≤ ({ tc with idleTicks := 0 } : Params).idleTicks) ∧ ¬ (({ tc with idleTicks := 2 ^ 31 } : Params).idleTicks ≤ 2 ^ 31 - 1) ∧
    ¬ (2 ≤ ({ tc with slSlots := 1 } : Params).slSlots) ∧ ¬ (1 ≤ ({ tc with pxJobs := 0 } : Params).pxJobs) ∧
    ¬ (({ tc with hostRxCap := 256 } : Params).hostRxCap ≤ 255) ∧ ¬ (3 ≤ ({ tc with slaveRxCap := 2 } : Params).slaveRxCap) ∧
    ({ tc with trigSentinel := 0#8 } : Params).trigSentinel = 0#8 ∧
    ¬ [tc.stIdle, tc.stIdle, tc.stTrig, 0x01#8].Nodup ∧
    ¬ (1 ≤ (({ tc with slPollFrame := { slots := [] } } : Params).slPoll 0).length) ∧
    ¬ ((({ tc with slFrameMax := 6 } : Params).slLed 0 0).length ≤ ({ tc with slFrameMax := 6 } : Params).slFrameMax) ∧
    ¬ (1 ≤ ({ tc with slOffFrame := [] } : Params).slOffFrame.length) ∧
    ¬ ((({ tc with pxLedFrame := { slots := List.replicate 193 (.lit 0) } } : Params).pxLed 0 0).length ≤ 192) ∧
    ¬ (({ tc with pxOffFrame := List.replicate 193 0#8 } : Params).pxOffFrame.length ≤ 192) := by decide +kernel

theorem witness_OnlyHostFramesRestartTheWatchdog :
    let s := hostCollected [0x01] State.reset
    portTransaction (.hrx 0x16) = true ∧ s.hp.state = .waitEnd ∧ (∃ t, exec (.hrx 0x16) s = .next t) ∧
    portTransaction (.hrx 0x27) = true ∧ ∃ t, exec (.hrx 0x27) s = .next t :=
  ⟨rfl, rfl, exists_next (by decide), rfl, exists_next (by decide)⟩

theorem witness_StateIsWrittenByItsOwnersOnly :
    portTransaction .tick = true ∧ (∃ t, exec .tick busy = .next t) ∧ (∃ t, exec (.btn 0x01) busy = .next t) ∧
    ∃ t, exec .slqPop busy = .next t := ⟨rfl, exists_next (by decide), exists_next (by decide), exists_next (by decide)⟩

end Sys2Proof.Tests
end

section
/-!
SUPPORT. What a record that `DISPATCH` gives can be, in a well-formed configuration (46_host_commands.md R124, R125).
-/

namespace Sys2Proof

variable {p : Params} {sc g a : Byte} {pl : Bytes} {es : List EffectRec} {e : EffectRec}

/-- `DISPATCH` answers on its domain only, by one of its three arms (R124, R125). -/
theorem Params.dispatch_eq_some :
    p.dispatch sc g a pl = some es ↔ p.InDom sc ∧
      ((sc = p.scMapUpload ∧ es = [{ code := 0x01#8, bytes := pl }]) ∨
       (sc ≠ p.scMapUpload ∧ sc = p.scPoll ∧ es = []) ∨
       (sc ≠ p.scMapUpload ∧ sc ≠ p.scPoll ∧ es = p.openDispatch sc g a pl)) := by
  unfold Params.dispatch
  by_cases hdom : p.InDom sc
  · rw [if_neg (not_not.2 hdom), and_iff_right hdom]
    by_cases hmap : sc = p.scMapUpload
    · simp [hmap, eq_comm]
    · by_cases hpoll : sc = p.scPoll
      · rw [if_neg hmap, if_pos hpoll]
        simp [← hpoll, hmap, eq_comm]
      · simp [hmap, hpoll, eq_comm]
  · rw [if_pos hdom]
    exact iff_of_false (nomatch ·) fun h => hdom h.1

/-- A row that admits a frame is for the frame's service code. -/
theorem DispatchRow.sc_of_admits {r : DispatchRow} (h : r.admits sc g a pl = true) : r.sc = sc := by
  simp only [DispatchRow.admits, Bool.and_eq_true, decide_eq_true_eq] at h
  exact h.1.1.1.1.1

/-- A record of the open part is computed by a template of a row for the frame's service code. -/
theorem Params.mem_openDispatch (he : e ∈ p.openDispatch sc g a pl) :
    ∃ r ∈ p.dispatchRows, r.sc = sc ∧ ∃ t ∈ r.effects, t.record g a pl = e := by
  unfold Params.openDispatch at he
  cases hfind : p.dispatchRows.find? (fun r => r.admits sc g a pl) with
  | none => simp [hfind] at he
  | some r =>
    simp only [hfind, List.mem_map] at he
    have hadm := List.find?_some (p := fun r => DispatchRow.admits r sc g a pl) hfind
    exact ⟨r, List.mem_of_find?_eq_some hfind, DispatchRow.sc_of_admits hadm, he⟩

/-- Where every row is well-formed, a record that `DISPATCH` gives is the fixed one of `SC_MAP_UPLOAD`, or has a code allowed for the
service code and a good selector (R124, R125). -/
theorem Params.dispatch_record_cases (hrows : ∀ r ∈ p.dispatchRows, p.RowOk r) (hd : p.dispatch sc g a pl = some es) (he : e ∈ es) :
    (sc = p.scMapUpload ∧ e.code = 0x01#8) ∨ (e.code ∈ p.allowedEffects sc ∧ SelectorOk e.code e.tbl) := by
  obtain ⟨-, ⟨hsc, rfl⟩ | ⟨-, -, rfl⟩ | ⟨-, -, rfl⟩⟩ := Params.dispatch_eq_some.1 hd
  · obtain rfl := List.mem_singleton.1 he
    exact .inl ⟨hsc, rfl⟩
  · exact absurd he List.not_mem_nil
  · obtain ⟨r, hr, rfl, t, ht, rfl⟩ := Params.mem_openDispatch he
    obtain ⟨-, -, -, htemplates⟩ := hrows r hr
    exact .inr (htemplates t ht)

/-- R125's table holds effect codes of R63 only. -/
theorem Params.allowedEffects_subset (p : Params) (sc : Byte) : p.allowedEffects sc ⊆ effectCodes := by
  unfold Params.allowedEffects
  split_ifs <;> decide

/-- R125's table row by row, where the named codes are distinct. -/
theorem Params.allowedEffects_named (h : p.namedCodes.Nodup) :
    p.allowedEffects p.scLedCtrl = [0x02#8, 0x03#8, 0x04#8, 0x05#8, 0x06#8] ∧
    p.allowedEffects p.scOneshotLedReset = [0x07#8, 0x08#8, 0x03#8, 0x04#8, 0x05#8, 0x06#8] ∧
    p.allowedEffects p.scLedReset = [0x03#8, 0x04#8, 0x05#8, 0x06#8] ∧
    p.allowedEffects p.scRelaySet = [0x09#8] ∧ p.allowedEffects p.scBtnReset = [0x0A#8] ∧
    p.allowedEffects p.scPxMask = [0x0B#8] := by
  have hrev := List.nodup_reverse.2 h
  simp [Params.namedCodes] at hrev
  simp [Params.allowedEffects, hrev]

/-- Every record that a well-formed configuration's `DISPATCH` gives has a code of R63, a good selector, and a code that R125's table
allows its service code. -/
theorem Params.dispatch_record_lawful (hok : p.Conditions) (hd : p.dispatch sc g a pl = some es) (he : e ∈ es) :
    e.Ok ∧
    (sc = p.scLedCtrl → e.code ∈ [0x02#8, 0x03#8, 0x04#8, 0x05#8, 0x06#8]) ∧
    (sc = p.scOneshotLedReset → e.code ∈ [0x07#8, 0x08#8, 0x03#8, 0x04#8, 0x05#8, 0x06#8]) ∧
    (sc = p.scLedReset → e.code ∈ [0x03#8, 0x04#8, 0x05#8, 0x06#8]) ∧
    (sc = p.scRelaySet → e.code = 0x09#8) ∧ (sc = p.scBtnReset → e.code = 0x0A#8) ∧
    (sc = p.scPxMask → e.code = 0x0B#8) := by
  obtain ⟨-, ⟨-, -, hnodup, -⟩, -, hrows⟩ := hok
  have hnamed : p.namedCodes.Nodup := hnodup.of_cons
  obtain ⟨hsc, hcode⟩ | ⟨hallowed, hsel⟩ := Params.dispatch_record_cases hrows hd he
  · simp only [Params.namedCodes, List.nodup_cons, List.mem_cons, List.not_mem_nil, not_or] at hnamed
    refine ⟨⟨hcode ▸ by decide, fun h => absurd (hcode ▸ h) (by decide)⟩, ?_⟩
    simp [hsc, hnamed, ne_comm]
  · obtain ⟨hled, hone, hreset, hrelay, hbtn, hpx⟩ := Params.allowedEffects_named hnamed
    refine ⟨⟨p.allowedEffects_subset sc hallowed, hsel⟩, ?_⟩
    refine ⟨?_, ?_, ?_, ?_, ?_, ?_⟩ <;> rintro rfl
    · exact hled ▸ hallowed
    · exact hone ▸ hallowed
    · exact hreset ▸ hallowed
    · exact List.mem_singleton.1 (hrelay ▸ hallowed)
    · exact List.mem_singleton.1 (hbtn ▸ hallowed)
    · exact List.mem_singleton.1 (hpx ▸ hallowed)

/-- The codes of R63 are 1 to 11. -/
theorem toNat_of_mem_effectCodes : ∀ c ∈ effectCodes, 1 ≤ c.toNat ∧ c.toNat ≤ 11 := by decide

end Sys2Proof
end

section
/-!
SUPPORT. What lies outside the block: no instruction writes the configuration, the inputs still presented or the issuer (logs 1, 3, 4),
and a step takes the first input only (00_scope.md R6), in a well-formed configuration only (R8).
-/

namespace Sys2Proof.Machine

/-- `t` has the configuration, the inputs still presented and the issuer of `s`: the fields that stand for what is outside the block and
that no instruction writes (log 6). -/
structure State.SameOutside (s t : State) : Prop where
  params : t.params = s.params
  port : t.port = s.port
  issuer : t.issuer = s.issuer

namespace State.SameOutside

variable {s t u : State}

@[refl] theorem refl (s : State) : s.SameOutside s := ⟨rfl, rfl, rfl⟩

@[trans] theorem trans (h₁ : s.SameOutside t) (h₂ : t.SameOutside u) : s.SameOutside u :=
  ⟨h₂.params.trans h₁.params, h₂.port.trans h₁.port, h₂.issuer.trans h₁.issuer⟩

/-- An operation that always answers `u` keeps what is outside where `u` does. -/
theorem of_next (h : (.next u : Res State) = .next t) (hu : s.SameOutside u) : s.SameOutside t :=
  Host.Outcome.next.inj h ▸ hu

end State.SameOutside

variable {s t : State}

theorem respond_sameOutside (r : Response) (s : State) : s.SameOutside (respond r s) := ⟨rfl, rfl, rfl⟩

theorem emit_sameOutside (e : Event) (s : State) : s.SameOutside (emit e s) := ⟨rfl, rfl, rfl⟩

theorem pushSl_sameOutside {f : Bytes} (h : pushSl f s = .next t) : s.SameOutside t := by
  obtain ⟨r, -, rfl⟩ := pushSl_eq_next.1 h
  exact ⟨rfl, rfl, rfl⟩

theorem onTable_sameOutside {tbl : Byte} {op : JobTable → JobTable} (h : onTable tbl op s = .next t) : s.SameOutside t := by
  obtain ⟨-, rfl⟩ | ⟨-, rfl⟩ := onTable_eq_next.1 h <;> exact ⟨rfl, rfl, rfl⟩

theorem build_sameOutside (h : build s = .next t) : s.SameOutside t := by
  obtain ⟨-, rfl⟩ | ⟨-, r, -, -, rfl⟩ := build_eq_next.1 h <;> exact ⟨rfl, rfl, rfl⟩

/-! ### Effects -/

theorem execEffMapUpload_sameOutside {pl : Bytes} (h : execEffMapUpload pl s = .next t) : s.SameOutside t := by
  obtain ⟨-, rfl⟩ | ⟨n, pairs, -, -, rfl⟩ := execEffMapUpload_eq_next.1 h <;> exact ⟨rfl, rfl, rfl⟩

theorem execEffBcastReq_sameOutside {tbl : Byte} (h : execEffBcastReq tbl s = .next t) : s.SameOutside t := by
  obtain ⟨-, rfl⟩ | ⟨-, rfl⟩ := execEffBcastReq_eq_next.1 h <;> exact ⟨rfl, rfl, rfl⟩

theorem applyEffect_sameOutside {e : EffectRec} (h : applyEffect e s = .next t) : s.SameOutside t := by
  unfold applyEffect at h
  split at h
  · exact execEffMapUpload_sameOutside h
  · exact onTable_sameOutside h
  · exact onTable_sameOutside h
  · exact onTable_sameOutside h
  · exact onTable_sameOutside h
  · exact execEffBcastReq_sameOutside h
  · exact .of_next h ⟨rfl, rfl, rfl⟩
  · exact .of_next h ⟨rfl, rfl, rfl⟩
  · exact .of_next h (emit_sameOutside _ s)
  · exact .of_next h ⟨rfl, rfl, rfl⟩
  · exact .of_next h (emit_sameOutside _ s)
  · exact nomatch h

theorem applyEffects_sameOutside {es : List EffectRec} (h : applyEffects es s = .next t) : s.SameOutside t :=
  applyEffects_induction (P := s.SameOutside) (fun _ _ _ _ hu ht => hu.trans (applyEffect_sameOutside ht)) (.refl s) h

/-! ### Frames and bytes -/

theorem noteActivity_sameOutside (s : State) : s.SameOutside (noteActivity s) := ⟨rfl, rfl, rfl⟩

theorem hostCommand_sameOutside {sc g a : Byte} {pl : Bytes} (h : hostCommand sc g a pl s = .next t) : s.SameOutside t := by
  obtain ⟨-, rfl⟩ | ⟨es, u, -, hu, ht⟩ := hostCommand_eq_next.1 h
  · exact noteActivity_sameOutside s
  · exact (noteActivity_sameOutside s).trans ((applyEffects_sameOutside hu).trans (build_sameOutside ht))

/-- A completed host frame is a service code's command, or notes activity alone (R89, R126). -/
theorem hostFrame_cases (f : Bytes) (s : State) :
    hostFrame f s = .next (noteActivity s) ∨ ∃ sc g a pl, hostFrame f s = hostCommand sc g a pl s := by
  unfold hostFrame
  split
  · split
    case h_11 => exact .inl rfl
    all_goals exact .inr ⟨_, _, _, _, rfl⟩
  · exact .inl rfl

theorem hostFrame_sameOutside {f : Bytes} (h : hostFrame f s = .next t) : s.SameOutside t := by
  obtain hf | ⟨sc, g, a, pl, hf⟩ := hostFrame_cases f s <;> rw [hf] at h
  · exact .of_next h (noteActivity_sameOutside s)
  · exact hostCommand_sameOutside h

theorem statusReply_sameOutside (a st : Byte) (s : State) : s.SameOutside (statusReply a st s) := by
  unfold statusReply replyMirror
  split_ifs <;> exact ⟨rfl, rfl, rfl⟩

theorem slaveFrame_sameOutside {f : Bytes} (h : slaveFrame f s = .next t) : s.SameOutside t := by
  obtain hf | ⟨a, st, -, hf⟩ := slaveFrame_cases f s <;> rw [hf] at h
  · exact .of_next h (.refl s)
  · exact .of_next h (statusReply_sameOutside a st s)

/-- Handing a completed frame on keeps what is outside where the taker does. -/
theorem handOn_sameOutside {take : Bytes → State → Res State} {c : Option Bytes}
    (htake : ∀ {f : Bytes}, take f s = .next t → s.SameOutside t) (h : handOn take c s = .next t) : s.SameOutside t := by
  cases c with
  | none => exact .of_next h (.refl s)
  | some f => exact htake h

theorem execHrx_sameOutside {b : Byte} (h : execHrx b s = .next t) : s.SameOutside t := by
  obtain ⟨r, u, -, hu, rfl⟩ := execHrx_eq_next.1 h
  obtain ⟨hparams, hport, hissuer⟩ := handOn_sameOutside hostFrame_sameOutside hu
  exact ⟨hparams, hport, hissuer⟩

theorem execSrx_sameOutside {b : Byte} (h : execSrx b s = .next t) : s.SameOutside t := by
  obtain ⟨r, u, -, hu, rfl⟩ := execSrx_eq_next.1 h
  obtain ⟨hparams, hport, hissuer⟩ := handOn_sameOutside slaveFrame_sameOutside hu
  exact ⟨hparams, hport, hissuer⟩

/-! ### The tick -/

theorem serveBroadcasts_sameOutside (h : serveBroadcasts s = .next t) : s.SameOutside t := by
  obtain ⟨u, hu, ht⟩ := serveBroadcasts_eq_next.1 h
  have hsl : s.SameOutside u := by
    obtain ⟨-, rfl⟩ | ⟨-, r, -, rfl⟩ := serveSl_eq_next.1 hu <;> exact ⟨rfl, rfl, rfl⟩
  have hpx : u.SameOutside t := by
    obtain ⟨-, rfl⟩ | ⟨-, r, -, rfl⟩ := servePx_eq_next.1 ht <;> exact ⟨rfl, rfl, rfl⟩
  exact hsl.trans hpx

theorem idleTick_sameOutside (s : State) : s.SameOutside (idleTick s) := by
  unfold idleTick idleClear
  split_ifs <;> exact ⟨rfl, rfl, rfl⟩

/-- The clamp and the commit before a poll (R74, R75). -/
theorem commitAtZero_clampCursor_sameOutside (s : State) : s.SameOutside (commitAtZero (clampCursor s)) := by
  unfold commitAtZero clampCursor
  split_ifs <;> exact ⟨rfl, rfl, rfl⟩

theorem pollOne_sameOutside (h : pollOne s = .next t) : s.SameOutside t := by
  obtain ⟨a, r, -, -, rfl⟩ := pollOne_eq_next.1 h
  exact (commitAtZero_clampCursor_sameOutside s).trans ⟨rfl, rfl, rfl⟩

theorem slaveLinkTurn_sameOutside (h : slaveLinkTurn s = .next t) : s.SameOutside t := by
  obtain ⟨e, -, ⟨-, rfl⟩ | ⟨-, -, rfl⟩ | ⟨-, -, -, hpoll⟩ | ⟨-, -, -, rfl⟩⟩ := slaveLinkTurn_eq_next.1 h
  · exact ⟨rfl, rfl, rfl⟩
  · exact ⟨rfl, rfl, rfl⟩
  · exact pollOne_sameOutside hpoll
  · exact .refl _

theorem pixelTurn_sameOutside (h : pixelTurn s = .next t) : s.SameOutside t := by
  obtain ⟨e, -, rfl⟩ := pixelTurn_eq_next.1 h
  exact ⟨rfl, rfl, rfl⟩

theorem execTick_sameOutside (h : execTick s = .next t) : s.SameOutside t := by
  obtain ⟨u, hu, hbranch⟩ := execTick_eq_next.1 h
  have hsu : s.SameOutside u := .trans (t := tickAdvance s) ⟨rfl, rfl, rfl⟩ (serveBroadcasts_sameOutside hu)
  obtain ⟨-, rfl⟩ | ⟨-, v, w, hv, hw, rfl⟩ := hbranch
  · exact hsu.trans ((idleTick_sameOutside u).trans (respond_sameOutside .ack _))
  · have huv : u.SameOutside v := .trans (t := { u with idleCleared := false }) ⟨rfl, rfl, rfl⟩ (slaveLinkTurn_sameOutside hv)
    have hvw : v.SameOutside w := (emit_sameOutside .pxRequestFlush v).trans (pixelTurn_sameOutside hw)
    exact hsu.trans (huv.trans (hvw.trans (respond_sameOutside .ack w)))

/-! ### The consumer's and the button's transactions -/

theorem execBtn_sameOutside {bits : Byte} (h : execBtn bits s = .next t) : s.SameOutside t := by
  obtain ⟨u, hu, ht⟩ := andThen_eq_next.1 h
  obtain ⟨hparams, hport, hissuer⟩ := build_sameOutside hu
  exact .of_next ht ⟨hparams, hport, hissuer⟩

theorem execSlqPop_sameOutside (h : execSlqPop s = .next t) : s.SameOutside t := by
  obtain ⟨r, -, ht⟩ := andThen_eq_next.1 h
  exact .of_next ht ⟨rfl, rfl, rfl⟩

theorem execPxqPop_sameOutside (h : execPxqPop s = .next t) : s.SameOutside t := by
  obtain ⟨r, -, ht⟩ := andThen_eq_next.1 h
  exact .of_next ht ⟨rfl, rfl, rfl⟩

theorem execStPeek_sameOutside (h : execStPeek s = .next t) : s.SameOutside t := by
  unfold execStPeek at h
  split at h
  · exact .of_next h (respond_sameOutside .empty s)
  · obtain ⟨f, -, ht⟩ := andThen_eq_next.1 h
    exact .of_next ht (respond_sameOutside (.frame f) s)

/-! ### Instructions, steps and runs -/

/-- No instruction writes what is outside the block. -/
theorem exec_sameOutside {i : Instr} (h : exec i s = .next t) : s.SameOutside t := by
  cases i with
  | tick => exact execTick_sameOutside h
  | hrx b => exact execHrx_sameOutside h
  | srx b => exact execSrx_sameOutside h
  | btn bits => exact execBtn_sameOutside h
  | slqPop => exact execSlqPop_sameOutside h
  | pxqPop => exact execPxqPop_sameOutside h
  | stPeek => exact execStPeek_sameOutside h
  | stSent | slqDrops | pxqDrops => exact .of_next h ⟨rfl, rfl, rfl⟩
  | reservedOp0 low | reservedOpB low | reservedOpC low | reservedOpD low | reservedOpE low | reservedOpF low =>
    exact .of_next h (respond_sameOutside .illegal s)
  | scPoll g a pl | scLedCtrl g a pl | scOneshotLedReset g a pl | scMapUpload g a pl | scLedReset g a pl | scRelaySet g a pl
  | scBtnReset g a pl | scPxMask g a pl | scStatusReplyReceived g a pl => exact hostCommand_sameOutside h
  | hostUnrecognised content => exact .of_next h (noteActivity_sameOutside s)
  | slaveStatusReply addr state => exact .of_next h (statusReply_sameOutside addr state s)
  | slaveIgnoredShape content | slaveIgnoredValue addr state => exact .of_next h (.refl s)
  | slaveLinkFrameSent frame => exact pushSl_sameOutside h
  | statusFrameSent => exact build_sameOutside h
  | effMapUpload payload => exact execEffMapUpload_sameOutside h
  | effJobStart tbl target ind => exact onTable_sameOutside (op := (·.start target ind s.tick)) h
  | effJobStopInd tbl ind => exact onTable_sameOutside (op := (·.stopInd ind)) h
  | effJobStopAll tbl => exact onTable_sameOutside h
  | effJobRemoveExcept tbl target keep => exact onTable_sameOutside (op := (·.removeExcept target keep)) h
  | effBcastReq tbl => exact execEffBcastReq_sameOutside h
  | effOneshotSet all mask | effForceSet mask | effBtnReset => exact .of_next h ⟨rfl, rfl, rfl⟩
  | effRelaySet value | effPxMask value => exact .of_next h (emit_sameOutside _ s)
  | reservedEffect code => exact nomatch h

/-- A step takes the first input, where there is one, and no other (R5, R6). -/
theorem step_port (h : step s = .next t) : t.port = s.port.drop 1 := by
  obtain ⟨-, hinput⟩ := step_eq_next.1 h
  obtain ⟨hport, rfl⟩ | ⟨rest, hport, rfl⟩ | ⟨a, w, rest, hport, ⟨i, -, hexec⟩ | ⟨e, -, rfl⟩⟩ := hinput
  · rw [hport, List.drop_nil]
  · rw [hport]; rfl
  · rw [hport, (exec_sameOutside hexec).port]; rfl
  · rw [hport]; rfl

/-- A run of `k + 1` steps is a step and a run of `k`. -/
theorem run_succ_eq_next (M : Host.Core) {k : Nat} {s t : M.State} :
    M.run (k + 1) s = .next t ↔ ∃ u, M.step s = .next u ∧ M.run k u = .next t := by
  rw [Host.Core.run]
  cases M.step s <;> simp

theorem run_port {k : Nat} (h : Host.Core.run core k s = .next t) : t.port = s.port.drop k := by
  induction k generalizing s with
  | zero => exact Host.Outcome.next.inj h ▸ rfl
  | succ k ih =>
    obtain ⟨u, hstep, hrun⟩ := (run_succ_eq_next core).1 h
    rw [ih hrun, step_port hstep, List.drop_drop, Nat.add_comm]

/-- An agent's words in two runs of inputs, one after the other. -/
theorem wordsOf_append (a : Agent) (l₁ l₂ : List PortInput) : wordsOf a (l₁ ++ l₂) = wordsOf a l₁ ++ wordsOf a l₂ :=
  List.filterMap_append

/-- A configuration that breaks a condition is refused at every step (R8, log 15). -/
theorem step_of_not_conditions (h : ¬ s.params.Conditions) : step s = .refused .illFormedConfig :=
  if_neg (mt s.params.ok_iff.1 h)

end Sys2Proof.Machine
end

section
/-!
CERTIFICATES. The statements of 00_scope.md.
-/

namespace Sys2Proof.Machine

/-- Settles O15: inside 1..31 the mask is a shifted one, and the shift stays below 32; outside it is zero. -/
theorem addressMaskIsOneBit : Obligations.AddressMaskIsOneBit := by
  intro a j
  unfold addrBit
  split_ifs with ha
  · obtain ⟨hmin, hmax⟩ : 1 ≤ a.toNat ∧ a.toNat ≤ 31 := ha
    rw [Bool.eq_iff_iff]
    simp only [BitVec.getLsbD_shiftLeft, BitVec.getLsbD_one, Bool.and_eq_true, Bool.not_eq_true', decide_eq_true_eq,
      decide_eq_false_iff_not]
    omega
  · have hout : ¬ (1 ≤ a.toNat ∧ a.toNat ≤ 31 ∧ j = a.toNat) := fun ⟨hmin, hmax, _⟩ => ha ⟨hmin, hmax⟩
    rw [BitVec.getLsbD_zero, decide_eq_false hout]

/-- Settles O41: a two's-complement reading differs from the unsigned one by 0 or 2^32, and so does the wrapped difference from the
true one. -/
theorem signedDifferenceIsWrapSafe : Obligations.SignedDifferenceIsWrapSafe := by
  intro a b
  have hread : sdiff32 a b = if 2 * (a - b).toNat < 2 ^ 32 then ((a - b).toNat : Int) else (a - b).toNat - 2 ^ 32 :=
    BitVec.toInt_eq_toNat_cond (a - b)
  have hwrap : (a - b).toNat = (2 ^ 32 - b.toNat + a.toNat) % 2 ^ 32 := BitVec.toNat_sub a b
  have hb : b.toNat < 2 ^ 32 := b.isLt
  split_ifs at hread <;> omega

/-- Settles O57: by induction on the number of steps, each of which takes the first input only. -/
theorem inputsAreTakenInOrder : Obligations.InputsAreTakenInOrder := by
  intro s t k h
  have hport := run_port h
  refine ⟨hport, fun a => ⟨wordsOf a (s.port.take k), ?_⟩⟩
  rw [hport, ← wordsOf_append, List.take_append_drop]

/-- Settles O56: each condition named follows from `Params.Conditions`, which `step` checks. -/
theorem illFormedConfigurationIsRefused : Obligations.IllFormedConfigurationIsRefused := by
  intro s
  refine ⟨fun hbad => step_of_not_conditions ?_, fun sc g a pl es e hd he hbad => step_of_not_conditions fun hok => ?_,
    fun hbad => step_of_not_conditions ?_⟩
  · rintro ⟨⟨hcfg, hstatus, hidle, hidle', hsl, hpx, hslj, hpxj, hhost, hhost', hslave, hslave'⟩, ⟨htrig, hnodup, -⟩,
      ⟨hpoll, hled, hoff, hpxled, hpxoff, -⟩, -⟩
    obtain h | h | h | h | h | h | h | h | h | h | h | h := hbad
    · exact h ⟨hcfg, hstatus⟩
    · exact h ⟨hidle, hidle'⟩
    · exact h ⟨hsl, hpx⟩
    · exact h ⟨hslj, hpxj⟩
    · exact h ⟨hhost, hhost', hslave, hslave'⟩
    · exact htrig h
    · exact h hnodup
    · exact h fun a => FrameFn.frame_length hpoll a 0#8
    · exact h fun t i => FrameFn.frame_length hled t i
    · exact h hoff
    · exact h fun t i => FrameFn.frame_length hpxled t i
    · exact h hpxoff
  · obtain ⟨⟨hcode, hsel⟩, hled, hone, hreset, hrelay, hbtn, hpx⟩ := Params.dispatch_record_lawful hok hd he
    obtain ⟨hmin, hmax⟩ := toNat_of_mem_effectCodes e.code hcode
    obtain (h | h) | ⟨h, h0, h1⟩ | ⟨hsc, h⟩ | ⟨hsc, h⟩ | ⟨hsc, h⟩ | ⟨hsc, h⟩ | ⟨hsc, h⟩ | ⟨hsc, h⟩ := hbad
    · simp [h] at hmin
    · omega
    · exact (hsel h).elim h0 h1
    · exact h (hled hsc)
    · exact h (hone hsc)
    · exact h (hreset hsc)
    · exact h (hrelay hsc)
    · exact h (hbtn hsc)
    · exact h (hpx hsc)
  · rintro ⟨-, ⟨-, -, hnodup, hfurther⟩, -, hrows⟩
    obtain h | h | ⟨r, hr, h⟩ := hbad
    · exact h ((List.perm_append_singleton s.params.scStatusReply s.params.namedCodes).nodup_iff.2 hnodup)
    · exact hfurther h
    · obtain ⟨hdom, hpoll, hmap, -⟩ := hrows r hr
      obtain h | h | h := h
      · exact h hdom
      · exact hpoll h
      · exact hmap h

end Sys2Proof.Machine
end

section
/-!
SUPPORT. What a step can make of the connector masks and the job tables: a chain of the few updates that write them, so that an invariant
of masks and tables is proved once for each update (10_state.md R33 to R35).
-/

namespace Sys2Proof.Machine

/-! ### The updates -/

/-- The four connector masks and the two job tables: the part of the state that R33 to R35 speak of. -/
def State.masksAndTables (s : State) : U32 × U32 × U32 × U32 × JobTable × JobTable :=
  (s.roundAlive, s.roundTrig, s.alive, s.trig, s.slj, s.pxj)

/-- What one operation makes of a job table: a start (R104), a deactivation (R105 to R107), an emission (R108), or nothing. -/
inductive JobTable.Update (j : JobTable) : JobTable → Prop
  | keep : j.Update j
  | start (t i : Byte) (tick : U32) : j.Update (j.start t i tick)
  | deactivate (hit : Job → Bool) : j.Update (j.deactivate hit)
  | emission {k : Nat} {job : Job} (next : U32) (cur : Nat) (hjob : j.slots[k]? = some job) :
      j.Update { slots := j.slots.set k { job with next := next }, cur := cur }

/-- One update of the state, as the connector masks and the job tables see it: one outside them, a status reply (R92, R93), a round
commit (R75), an update of either table, or `rst`. -/
inductive State.Update : State → State → Prop
  | elsewhere {s t : State} (h : t.masksAndTables = s.masksAndTables) : State.Update s t
  | reply (s : State) (addr state : Byte) : State.Update s (statusReply addr state s)
  | commit (s : State) : State.Update s (commit s)
  | slTable (s : State) {j : JobTable} (hj : s.slj.Update j) : State.Update s { s with slj := j }
  | pxTable (s : State) {j : JobTable} (hj : s.pxj.Update j) : State.Update s { s with pxj := j }
  | reset (s : State) : State.Update s (resetBlock s)

/-- `t` comes from `s` by updates, one after the other. -/
abbrev State.Updates : State → State → Prop := Relation.ReflTransGen State.Update

variable {s t u : State}

theorem State.Updates.elsewhere (h : t.masksAndTables = s.masksAndTables) : s.Updates t := .single (.elsewhere h)

/-- An operation that always answers `u` makes what `u` shows. -/
theorem State.Updates.of_next (h : (.next u : Res State) = .next t) (hu : s.Updates u) : s.Updates t :=
  Host.Outcome.next.inj h ▸ hu

/-- What each update keeps, a chain of updates keeps. -/
theorem State.Updates.keeps {P : State → Prop} (hP : ∀ {s t : State}, s.Update t → P s → P t) (h : s.Updates t) (hs : P s) : P t := by
  induction h with
  | refl => exact hs
  | tail _ hlast ih => exact hP hlast ih

/-! ### Shared operations -/

theorem pushSl_updates {f : Bytes} (h : pushSl f s = .next t) : s.Updates t := by
  obtain ⟨r, -, rfl⟩ := pushSl_eq_next.1 h
  exact .elsewhere rfl

theorem onTable_updates {tbl : Byte} {op : JobTable → JobTable} (hop : ∀ j : JobTable, j.Update (op j))
    (h : onTable tbl op s = .next t) : s.Updates t := by
  obtain ⟨-, rfl⟩ | ⟨-, rfl⟩ := onTable_eq_next.1 h
  · exact .single (.slTable s (hop s.slj))
  · exact .single (.pxTable s (hop s.pxj))

theorem build_updates (h : build s = .next t) : s.Updates t := by
  obtain ⟨-, rfl⟩ | ⟨-, r, -, -, rfl⟩ := build_eq_next.1 h <;> exact .elsewhere rfl

/-- `EmitOne` emits a job of the table or leaves the table as it is (R108). -/
theorem emitOne_table_update {jn qn : ArrayName} {n m : Nat} {F : Byte → Byte → Bytes} {tick : U32} {j : JobTable} {q : Queue}
    {e : Emission} (h : emitOne jn qn n m F tick j q = .next e) : j.Update e.table := by
  obtain ⟨-, rfl⟩ | ⟨-, k, -, hslot⟩ := emitOne_eq_next.1 h
  · exact .keep
  · obtain ⟨job, r, hjob, -, rfl⟩ := emitSlot_eq_next.1 hslot
    exact .emission _ _ hjob

/-! ### Effects -/

theorem execEffMapUpload_updates {pl : Bytes} (h : execEffMapUpload pl s = .next t) : s.Updates t := by
  obtain ⟨-, rfl⟩ | ⟨n, pairs, -, -, rfl⟩ := execEffMapUpload_eq_next.1 h <;> exact .elsewhere rfl

theorem execEffJobStart_updates {tbl target ind : Byte} (h : execEffJobStart tbl target ind s = .next t) : s.Updates t :=
  onTable_updates (fun _ => .start target ind s.tick) h

theorem execEffJobStopInd_updates {tbl ind : Byte} (h : execEffJobStopInd tbl ind s = .next t) : s.Updates t :=
  onTable_updates (fun _ => .deactivate _) h

theorem execEffJobStopAll_updates {tbl : Byte} (h : execEffJobStopAll tbl s = .next t) : s.Updates t :=
  onTable_updates (fun _ => .deactivate _) h

theorem execEffJobRemoveExcept_updates {tbl target keep : Byte} (h : execEffJobRemoveExcept tbl target keep s = .next t) :
    s.Updates t :=
  onTable_updates (fun _ => .deactivate _) h

theorem execEffBcastReq_updates {tbl : Byte} (h : execEffBcastReq tbl s = .next t) : s.Updates t := by
  obtain ⟨-, rfl⟩ | ⟨-, rfl⟩ := execEffBcastReq_eq_next.1 h <;> exact .elsewhere rfl

theorem applyEffect_updates {e : EffectRec} (h : applyEffect e s = .next t) : s.Updates t := by
  unfold applyEffect at h
  split at h
  · exact execEffMapUpload_updates h
  · exact execEffJobStart_updates h
  · exact execEffJobStopInd_updates h
  · exact execEffJobStopAll_updates h
  · exact execEffJobRemoveExcept_updates h
  · exact execEffBcastReq_updates h
  · exact .of_next h (.elsewhere rfl)
  · exact .of_next h (.elsewhere rfl)
  · exact .of_next h (.elsewhere rfl)
  · exact .of_next h (.elsewhere rfl)
  · exact .of_next h (.elsewhere rfl)
  · exact nomatch h

theorem applyEffects_updates {es : List EffectRec} (h : applyEffects es s = .next t) : s.Updates t :=
  applyEffects_induction (P := s.Updates) (fun _ _ _ _ hu ht => hu.trans (applyEffect_updates ht)) .refl h

/-! ### Frames and bytes -/

theorem noteActivity_updates (s : State) : s.Updates (noteActivity s) := .elsewhere rfl

theorem hostCommand_updates {sc g a : Byte} {pl : Bytes} (h : hostCommand sc g a pl s = .next t) : s.Updates t := by
  obtain ⟨-, rfl⟩ | ⟨es, u, -, hu, ht⟩ := hostCommand_eq_next.1 h
  · exact noteActivity_updates s
  · exact (noteActivity_updates s).trans ((applyEffects_updates hu).trans (build_updates ht))

theorem hostFrame_updates {f : Bytes} (h : hostFrame f s = .next t) : s.Updates t := by
  obtain hf | ⟨sc, g, a, pl, hf⟩ := hostFrame_cases f s <;> rw [hf] at h
  · exact .of_next h (noteActivity_updates s)
  · exact hostCommand_updates h

theorem slaveFrame_updates {f : Bytes} (h : slaveFrame f s = .next t) : s.Updates t := by
  obtain hf | ⟨a, st, -, hf⟩ := slaveFrame_cases f s <;> rw [hf] at h
  · exact .of_next h .refl
  · exact .of_next h (.single (.reply s a st))

/-- Handing a completed frame on makes the updates that the taker makes. -/
theorem handOn_updates {take : Bytes → State → Res State} {c : Option Bytes}
    (htake : ∀ {f : Bytes}, take f s = .next t → s.Updates t) (h : handOn take c s = .next t) : s.Updates t := by
  cases c with
  | none => exact .of_next h .refl
  | some f => exact htake h

theorem execHrx_updates {b : Byte} (h : execHrx b s = .next t) : s.Updates t := by
  obtain ⟨r, u, -, hu, rfl⟩ := execHrx_eq_next.1 h
  have hparser : s.Updates { s with hp := r.parser } := .elsewhere rfl
  exact (hparser.trans (handOn_updates hostFrame_updates hu)).tail (.elsewhere rfl)

theorem execSrx_updates {b : Byte} (h : execSrx b s = .next t) : s.Updates t := by
  obtain ⟨r, u, -, hu, rfl⟩ := execSrx_eq_next.1 h
  have hparser : s.Updates { s with sp := r.parser } := .elsewhere rfl
  exact (hparser.trans (handOn_updates slaveFrame_updates hu)).tail (.elsewhere rfl)

/-! ### The tick -/

theorem serveBroadcasts_updates (h : serveBroadcasts s = .next t) : s.Updates t := by
  obtain ⟨u, hu, ht⟩ := serveBroadcasts_eq_next.1 h
  have hsl : s.Updates u := by
    obtain ⟨-, rfl⟩ | ⟨-, r, -, rfl⟩ := serveSl_eq_next.1 hu <;> exact .elsewhere rfl
  have hpx : u.Updates t := by
    obtain ⟨-, rfl⟩ | ⟨-, r, -, rfl⟩ := servePx_eq_next.1 ht <;> exact .elsewhere rfl
  exact hsl.trans hpx

theorem idleTick_updates (s : State) : s.Updates (idleTick s) := by
  unfold idleTick idleClear
  split_ifs <;> exact .elsewhere rfl

/-- Before a poll the masks are committed at cursor zero, and else left (R74, R75). -/
theorem commitAtZero_clampCursor_updates (s : State) : s.Updates (commitAtZero (clampCursor s)) := by
  have hclamp : s.Updates (clampCursor s) := by
    unfold clampCursor
    split_ifs <;> exact .elsewhere rfl
  have hcommit : (clampCursor s).Updates (commitAtZero (clampCursor s)) := by
    unfold commitAtZero
    split_ifs
    · exact .single (.commit _)
    · exact .refl
  exact hclamp.trans hcommit

theorem pollOne_updates (h : pollOne s = .next t) : s.Updates t := by
  obtain ⟨a, r, -, -, rfl⟩ := pollOne_eq_next.1 h
  exact (commitAtZero_clampCursor_updates s).tail (.elsewhere rfl)

theorem slaveLinkTurn_updates (h : slaveLinkTurn s = .next t) : s.Updates t := by
  obtain ⟨e, he, ⟨-, rfl⟩ | ⟨-, -, rfl⟩ | ⟨-, -, -, hpoll⟩ | ⟨-, -, -, rfl⟩⟩ := slaveLinkTurn_eq_next.1 h
  · have htable : s.Updates { s with slj := e.table } := .single (.slTable s (emitOne_table_update he))
    exact htable.tail (.elsewhere rfl)
  · exact .elsewhere rfl
  · exact pollOne_updates hpoll
  · exact .refl

theorem pixelTurn_updates (h : pixelTurn s = .next t) : s.Updates t := by
  obtain ⟨e, he, rfl⟩ := pixelTurn_eq_next.1 h
  have htable : s.Updates { s with pxj := e.table } := .single (.pxTable s (emitOne_table_update he))
  exact htable.tail (.elsewhere rfl)

theorem execTick_updates (h : execTick s = .next t) : s.Updates t := by
  obtain ⟨u, hu, hbranch⟩ := execTick_eq_next.1 h
  have hadvance : s.Updates (tickAdvance s) := .elsewhere rfl
  have hsu : s.Updates u := hadvance.trans (serveBroadcasts_updates hu)
  obtain ⟨-, rfl⟩ | ⟨-, v, w, hv, hw, rfl⟩ := hbranch
  · exact (hsu.trans (idleTick_updates u)).tail (.elsewhere rfl)
  · have hclear : u.Updates { u with idleCleared := false } := .elsewhere rfl
    have hflush : v.Updates (emit .pxRequestFlush v) := .elsewhere rfl
    have huv : u.Updates v := hclear.trans (slaveLinkTurn_updates hv)
    have hvw : v.Updates w := hflush.trans (pixelTurn_updates hw)
    exact (hsu.trans (huv.trans hvw)).tail (.elsewhere rfl)

/-! ### The consumer's and the button's transactions -/

theorem execBtn_updates {bits : Byte} (h : execBtn bits s = .next t) : s.Updates t := by
  obtain ⟨u, hu, ht⟩ := andThen_eq_next.1 h
  have hbits : s.Updates { s with statusExt := s.statusExt ||| bits } := .elsewhere rfl
  exact .of_next ht ((hbits.trans (build_updates hu)).tail (.elsewhere rfl))

theorem execSlqPop_updates (h : execSlqPop s = .next t) : s.Updates t := by
  obtain ⟨r, -, ht⟩ := andThen_eq_next.1 h
  exact .of_next ht (.elsewhere rfl)

theorem execPxqPop_updates (h : execPxqPop s = .next t) : s.Updates t := by
  obtain ⟨r, -, ht⟩ := andThen_eq_next.1 h
  exact .of_next ht (.elsewhere rfl)

theorem execStPeek_updates (h : execStPeek s = .next t) : s.Updates t := by
  unfold execStPeek at h
  split at h
  · exact .of_next h (.elsewhere rfl)
  · obtain ⟨f, -, ht⟩ := andThen_eq_next.1 h
    exact .of_next ht (.elsewhere rfl)

/-! ### Instructions and steps -/

theorem exec_updates {i : Instr} (h : exec i s = .next t) : s.Updates t := by
  cases i with
  | tick => exact execTick_updates h
  | hrx b => exact execHrx_updates h
  | srx b => exact execSrx_updates h
  | btn bits => exact execBtn_updates h
  | slqPop => exact execSlqPop_updates h
  | pxqPop => exact execPxqPop_updates h
  | stPeek => exact execStPeek_updates h
  | stSent | slqDrops | pxqDrops => exact .of_next h (.elsewhere rfl)
  | reservedOp0 low | reservedOpB low | reservedOpC low | reservedOpD low | reservedOpE low | reservedOpF low =>
    exact .of_next h (.elsewhere rfl)
  | scPoll g a pl | scLedCtrl g a pl | scOneshotLedReset g a pl | scMapUpload g a pl | scLedReset g a pl | scRelaySet g a pl
  | scBtnReset g a pl | scPxMask g a pl | scStatusReplyReceived g a pl => exact hostCommand_updates h
  | hostUnrecognised content => exact .of_next h (noteActivity_updates s)
  | slaveStatusReply addr state => exact .of_next h (.single (.reply s addr state))
  | slaveIgnoredShape content | slaveIgnoredValue addr state => exact .of_next h .refl
  | slaveLinkFrameSent frame => exact pushSl_updates h
  | statusFrameSent => exact build_updates h
  | effMapUpload payload => exact execEffMapUpload_updates h
  | effJobStart tbl target ind => exact execEffJobStart_updates h
  | effJobStopInd tbl ind => exact execEffJobStopInd_updates h
  | effJobStopAll tbl => exact execEffJobStopAll_updates h
  | effJobRemoveExcept tbl target keep => exact execEffJobRemoveExcept_updates h
  | effBcastReq tbl => exact execEffBcastReq_updates h
  | effOneshotSet all mask | effForceSet mask | effBtnReset | effRelaySet value | effPxMask value =>
    exact .of_next h (.elsewhere rfl)
  | reservedEffect code => exact nomatch h

/-- What a step makes of the connector masks and the job tables. -/
theorem step_updates (h : step s = .next t) : s.Updates t := by
  obtain ⟨-, hinput⟩ := step_eq_next.1 h
  obtain ⟨-, rfl⟩ | ⟨rest, -, rfl⟩ | ⟨a, w, rest, -, ⟨i, -, hexec⟩ | ⟨e, -, rfl⟩⟩ := hinput
  · exact .refl
  · have htake : s.Updates { s with port := rest } := .elsewhere rfl
    exact htake.trans (.single (.reset _))
  · have haccept : s.Updates (accept a rest s) := .elsewhere rfl
    exact haccept.trans (exec_updates hexec)
  · exact .elsewhere rfl

/-- What each update keeps, every step keeps. -/
theorem step_keeps {P : State → Prop} (hP : ∀ {s t : State}, s.Update t → P s → P t) (h : step s = .next t) (hs : P s) : P t :=
  (step_updates h).keeps hP hs

end Sys2Proof.Machine
end

section
/-!
SUPPORT. What each update keeps of the connector masks and of the job tables (10_state.md R33 to R35).
-/

namespace Sys2Proof.Machine

/-! ### Updates outside -/

theorem masksAndTables_eq_iff {s t : State} :
    t.masksAndTables = s.masksAndTables ↔
      t.roundAlive = s.roundAlive ∧ t.roundTrig = s.roundTrig ∧ t.alive = s.alive ∧ t.trig = s.trig ∧
        t.slj = s.slj ∧ t.pxj = s.pxj := by
  simp only [State.masksAndTables, Prod.mk.injEq]

/-! ### Masks -/

/-- A mask has no bit outside another where its bits are bits of the other. -/
theorem and_not_eq_zero_iff {x y : U32} :
    x &&& ~~~y = 0#32 ↔ ∀ k, x.getLsbD k = true → y.getLsbD k = true := by
  constructor
  · intro h k hx
    have hk : (x &&& ~~~y).getLsbD k = false := by rw [h, BitVec.getLsbD_zero]
    have hlt : k < 32 := BitVec.lt_of_getLsbD hx
    simpa [hx, hlt] using hk
  · intro h
    refine BitVec.eq_of_getLsbD_eq fun k hk => ?_
    cases hx : x.getLsbD k with
    | false => simp [hx]
    | true => simp [hx, h k hx]

/-- A reply's update of a triggered mask stays within the alive mask with the connector added (R92, R93). -/
theorem trigUpdate_within {p : Params} {state : Byte} {m trig alive : U32} (h : trig &&& ~~~alive = 0#32) :
    trigUpdate p state m trig &&& ~~~(alive ||| m) = 0#32 := by
  rw [and_not_eq_zero_iff] at h ⊢
  intro k hk
  rw [BitVec.getLsbD_or, Bool.or_eq_true]
  unfold trigUpdate at hk
  split_ifs at hk
  · rw [BitVec.getLsbD_or, Bool.or_eq_true] at hk
    exact hk.imp_left (h k)
  · rw [BitVec.getLsbD_and, Bool.and_eq_true] at hk
    exact .inl (h k hk.1)

/-- A reply of a connector whose mask leaves bit 0 clear leaves it clear in a triggered mask. -/
theorem trigUpdate_bitZero {p : Params} {state : Byte} {m trig : U32} (hm : m.getLsbD 0 = false) (h : trig.getLsbD 0 = false) :
    (trigUpdate p state m trig).getLsbD 0 = false := by
  unfold trigUpdate
  split_ifs
  · rw [BitVec.getLsbD_or, h, hm, Bool.or_false]
  · rw [BitVec.getLsbD_and, h, Bool.false_and]

/-- No address has bit 0 (R12). -/
theorem addrBit_bitZero (a : Byte) : (addrBit a).getLsbD 0 = false := by
  rw [addressMaskIsOneBit a 0, decide_eq_false]
  omega

/-- What a status reply makes of the state: nothing, or the update of the round masks with or without the mirror (R91 to R93). -/
theorem statusReply_cases (addr state : Byte) (s : State) :
    statusReply addr state s = s ∨ statusReply addr state s = replyRound (addrBit addr) state s ∨
      statusReply addr state s =
        { replyRound (addrBit addr) state s with
          alive := s.alive ||| addrBit addr, trig := trigUpdate s.params state (addrBit addr) s.trig } := by
  unfold statusReply replyMirror
  split_ifs
  · exact .inl rfl
  · exact .inr (.inr rfl)
  · exact .inr (.inl rfl)

theorem trigWithinAlive_update {s t : State} (h : s.Update t) (hs : s.TrigWithinAlive) : t.TrigWithinAlive := by
  obtain ⟨hround, hview⟩ := hs
  cases h with
  | elsewhere heq =>
    obtain ⟨hra, hrt, ha, ht, -, -⟩ := masksAndTables_eq_iff.1 heq
    rw [State.TrigWithinAlive, hra, hrt, ha, ht]
    exact ⟨hround, hview⟩
  | reply addr state =>
    obtain heq | heq | heq := statusReply_cases addr state s <;> rw [heq]
    · exact ⟨hround, hview⟩
    · exact ⟨trigUpdate_within hround, hview⟩
    · exact ⟨trigUpdate_within hround, trigUpdate_within hview⟩
  | commit =>
    refine ⟨BitVec.zero_and, and_not_eq_zero_iff.2 fun k hk => ?_⟩
    rw [commit_trig, BitVec.getLsbD_and, Bool.and_eq_true] at hk
    exact hk.2
  | slTable _ | pxTable _ => exact ⟨hround, hview⟩
  | reset => exact ⟨BitVec.zero_and, BitVec.zero_and⟩

theorem bitZeroClear_update {s t : State} (h : s.Update t) (hs : s.BitZeroClear) : t.BitZeroClear := by
  obtain ⟨hroundAlive, hroundTrig, halive, htrig⟩ := hs
  cases h with
  | elsewhere heq =>
    obtain ⟨hra, hrt, ha, ht, -, -⟩ := masksAndTables_eq_iff.1 heq
    rw [State.BitZeroClear, hra, hrt, ha, ht]
    exact ⟨hroundAlive, hroundTrig, halive, htrig⟩
  | reply addr state =>
    have hm := addrBit_bitZero addr
    have hor {x : U32} (hx : x.getLsbD 0 = false) : (x ||| addrBit addr).getLsbD 0 = false := by
      rw [BitVec.getLsbD_or, hx, hm, Bool.or_false]
    obtain heq | heq | heq := statusReply_cases addr state s <;> rw [heq]
    · exact ⟨hroundAlive, hroundTrig, halive, htrig⟩
    · exact ⟨hor hroundAlive, trigUpdate_bitZero hm hroundTrig, halive, htrig⟩
    · exact ⟨hor hroundAlive, trigUpdate_bitZero hm hroundTrig, hor halive, trigUpdate_bitZero hm htrig⟩
  | commit =>
    refine ⟨BitVec.getLsbD_zero, BitVec.getLsbD_zero, hroundAlive, ?_⟩
    rw [commit_trig, BitVec.getLsbD_and, hroundTrig, Bool.false_and]
  | slTable _ | pxTable _ => exact ⟨hroundAlive, hroundTrig, halive, htrig⟩
  | reset => exact ⟨BitVec.getLsbD_zero, BitVec.getLsbD_zero, BitVec.getLsbD_zero, BitVec.getLsbD_zero⟩

/-! ### Job tables -/

/-- Two slots are distinct where one of them is inactive. -/
theorem Job.distinct_of_inactive {a b : Job} (h : a.active = false ∨ b.active = false) : Job.Distinct a b := by
  rintro ⟨ha, hb, -, -⟩
  simp [ha, hb] at h

theorem Job.Distinct.symm {a b : Job} (h : Job.Distinct a b) : Job.Distinct b a :=
  fun ⟨hb, ha, htarget, hind⟩ => h ⟨ha, hb, htarget.symm, hind.symm⟩

/-- Setting a slot to a job that is distinct from every slot's keeps the slots distinct. -/
theorem pairwise_distinct_set {l : List Job} {a : Job} (hl : l.Pairwise Job.Distinct) (ha : ∀ x ∈ l, Job.Distinct x a) (k : Nat) :
    (l.set k a).Pairwise Job.Distinct := by
  induction l generalizing k with
  | nil => exact hl
  | cons x l ih =>
    obtain ⟨hx, hl⟩ := List.pairwise_cons.1 hl
    obtain ⟨hxa, hla⟩ := List.forall_mem_cons.1 ha
    cases k with
    | zero => exact List.pairwise_cons.2 ⟨fun y hy => (hla y hy).symm, hl⟩
    | succ k =>
      refine List.pairwise_cons.2 ⟨fun y hy => ?_, ih hl hla k⟩
      obtain hy | rfl := List.mem_or_eq_of_mem_set hy
      · exact hx y hy
      · exact hxa

/-- Whether two slots are distinct does not depend on the ticks at which they may be emitted. -/
theorem JobTable.jobsUnique_iff_jobs (j : JobTable) :
    j.JobsUnique ↔ j.jobs.Pairwise fun a b => ¬ (a.2.2 = true ∧ b.2.2 = true ∧ a.1 = b.1 ∧ a.2.1 = b.2.1) := by
  rw [JobTable.jobs, List.pairwise_map]

/-- An emission changes the ticks of a table only (R108). -/
theorem JobTable.jobs_emission {j : JobTable} {k : Nat} {job : Job} (hjob : j.slots[k]? = some job) (next : U32) (cur : Nat) :
    JobTable.jobs { slots := j.slots.set k { job with next := next }, cur := cur } = j.jobs := by
  obtain ⟨hk, rfl⟩ := List.getElem?_eq_some_iff.1 hjob
  rw [JobTable.jobs, JobTable.jobs, List.map_set]
  refine (congrArg _ ?_).trans (List.set_getElem_self (i := k) (by simpa using hk))
  rw [List.getElem_map]

theorem JobTable.jobsUnique_start {j : JobTable} (hj : j.JobsUnique) (t i : Byte) (tick : U32) : (j.start t i tick).JobsUnique := by
  obtain heq | ⟨hnone, k, -, heq⟩ := start_cases j t i tick <;> rw [heq]
  · exact hj
  · refine pairwise_distinct_set hj (fun x hx => ?_) k
    rintro ⟨hactive, -, rfl, rfl⟩
    simpa [Job.isActiveJob, hactive] using List.any_eq_false.1 hnone x hx

theorem JobTable.jobsUnique_deactivate {j : JobTable} (hj : j.JobsUnique) (hit : Job → Bool) : (j.deactivate hit).JobsUnique := by
  refine List.Pairwise.map _ (fun a b hab => ?_) hj
  split_ifs
  · exact Job.distinct_of_inactive (.inl rfl)
  · exact Job.distinct_of_inactive (.inl rfl)
  · exact Job.distinct_of_inactive (.inr rfl)
  · exact hab

theorem JobTable.jobsUnique_update {j j' : JobTable} (h : j.Update j') (hj : j.JobsUnique) : j'.JobsUnique := by
  cases h with
  | keep => exact hj
  | start t i tick => exact jobsUnique_start hj t i tick
  | deactivate hit => exact jobsUnique_deactivate hj hit
  | emission next cur hjob =>
    rw [jobsUnique_iff_jobs, jobs_emission hjob, ← jobsUnique_iff_jobs]
    exact hj

theorem JobTable.jobsUnique_reset (n : Nat) : (JobTable.reset n).JobsUnique :=
  List.pairwise_replicate.2 (.inr (Job.distinct_of_inactive (.inl rfl)))

theorem jobsUnique_update {s t : State} (h : s.Update t) (hs : s.JobsUnique) : t.JobsUnique := by
  obtain ⟨hsl, hpx⟩ := hs
  cases h with
  | elsewhere heq =>
    obtain ⟨-, -, -, -, hslj, hpxj⟩ := masksAndTables_eq_iff.1 heq
    rw [State.JobsUnique, hslj, hpxj]
    exact ⟨hsl, hpx⟩
  | reply addr state =>
    obtain heq | heq | heq := statusReply_cases addr state s <;> rw [heq] <;> exact ⟨hsl, hpx⟩
  | commit => exact ⟨hsl, hpx⟩
  | slTable hj => exact ⟨JobTable.jobsUnique_update hj hsl, hpx⟩
  | pxTable hj => exact ⟨hsl, JobTable.jobsUnique_update hj hpx⟩
  | reset => exact ⟨JobTable.jobsUnique_reset _, JobTable.jobsUnique_reset _⟩

end Sys2Proof.Machine
end

section
/-!
SUPPORT. A ring buffer within its bounds, seen as the sequence of its unread frames (10_state.md R36, 43_tx_queues.md R94 to R96).
-/

namespace Sys2Proof.Machine

theorem nextIndex_lt {n : Nat} (hn : 0 < n) (i : Nat) : nextIndex i n < n := Nat.mod_lt _ hn

theorem nextIndex_of_lt {i n : Nat} (h : i < n) : nextIndex i n = if i + 1 = n then 0 else i + 1 := by
  unfold nextIndex
  split_ifs with hn
  · rw [hn, Nat.mod_self]
  · exact Nat.mod_eq_of_lt (by omega)

variable {q : Queue} {n : Nat} {f : Bytes}

/-- The number of unread frames, by whether the head has wrapped past the tail. -/
theorem count_of_lt (hhead : q.head < n) (htail : q.tail < n) :
    q.count n = if q.tail ≤ q.head then q.head - q.tail else q.head + n - q.tail := by
  unfold Queue.count
  split_ifs with hle
  · rw [show q.head + n - q.tail = q.head - q.tail + n by omega, Nat.add_mod_right, Nat.mod_eq_of_lt (by omega)]
  · exact Nat.mod_eq_of_lt (by omega)

/-- A ring of `n` slots is full at `n - 1` unread frames (R94). -/
theorem isFull_iff_count (hhead : q.head < n) (htail : q.tail < n) : q.isFull n = true ↔ q.count n = n - 1 := by
  rw [Queue.isFull, decide_eq_true_iff, nextIndex_of_lt hhead, count_of_lt hhead htail]
  split_ifs <;> omega

/-- A ring is empty at no unread frame (R94). -/
theorem isEmpty_iff_count (hhead : q.head < n) (htail : q.tail < n) : q.isEmpty = true ↔ q.count n = 0 := by
  rw [Queue.isEmpty, decide_eq_true_iff, count_of_lt hhead htail]
  split_ifs <;> omega

theorem count_lt (hn : 0 < n) : q.count n < n := Nat.mod_lt _ hn

/-- The slot after the unread frames is the head. -/
theorem tail_add_count_mod (hhead : q.head < n) (htail : q.tail < n) : (q.tail + q.count n) % n = q.head := by
  rw [count_of_lt hhead htail]
  split_ifs
  · rw [show q.tail + (q.head - q.tail) = q.head by omega, Nat.mod_eq_of_lt hhead]
  · rw [show q.tail + (q.head + n - q.tail) = q.head + n by omega, Nat.add_mod_right, Nat.mod_eq_of_lt hhead]

/-- No unread frame stands at the head. -/
theorem unread_index_ne_head (hhead : q.head < n) (htail : q.tail < n) {i : Nat} (hi : i < q.count n) :
    (q.tail + i) % n ≠ q.head := by
  intro heq
  have hcount : q.count n < n := count_lt (by omega)
  have hmod : q.tail + i ≡ q.tail + q.count n [MOD n] := heq.trans (tail_add_count_mod hhead htail).symm
  have : i = q.count n := (Nat.ModEq.add_left_cancel' q.tail hmod).eq_of_lt_of_lt (by omega) hcount
  omega

/-! ### A stored push -/

/-- The ring after a push that is stored (R95). -/
def Queue.stored (q : Queue) (n : Nat) (f : Bytes) : Queue := { q with slot := q.slot.set q.head f, head := nextIndex q.head n }

/-- On a ring that is not full, a push stores its frame. -/
theorem push_of_not_full {name : ArrayName} (hslot : q.head < q.slot.length) (h : q.isFull n = false) :
    push name n q f = .next (q.stored n f, true) :=
  push_eq_next.2 (.inr ⟨h, hslot, rfl⟩)

theorem count_stored (hhead : q.head < n) (htail : q.tail < n) (hroom : q.count n < n - 1) :
    (q.stored n f).count n = q.count n + 1 := by
  have hnext : (q.stored n f).head < n := nextIndex_lt (by omega) q.head
  rw [count_of_lt hhead htail] at hroom ⊢
  rw [count_of_lt hnext htail]
  simp only [Queue.stored, nextIndex_of_lt hhead]
  split_ifs at hroom ⊢ <;> omega

/-- A push that is stored appends the frame to the unread frames (R95). -/
theorem unread_stored (hlen : q.slot.length = n) (hhead : q.head < n) (htail : q.tail < n) (hroom : q.count n < n - 1) :
    (q.stored n f).unread n = q.unread n ++ [f] := by
  have hnew : (q.slot.set q.head f).getD ((q.tail + q.count n) % n) [] = f := by
    rw [tail_add_count_mod hhead htail, List.getD_eq_getElem?_getD, List.getElem?_set_self (by omega), Option.getD_some]
  have hold : ∀ i ∈ List.range (q.count n),
      (q.slot.set q.head f).getD ((q.tail + i) % n) [] = q.slot.getD ((q.tail + i) % n) [] := by
    intro i hi
    have hne := unread_index_ne_head hhead htail (List.mem_range.1 hi)
    rw [List.getD_eq_getElem?_getD, List.getElem?_set_ne hne.symm, ← List.getD_eq_getElem?_getD]
  calc (q.stored n f).unread n
      = (List.range (q.count n + 1)).map fun i => (q.slot.set q.head f).getD ((q.tail + i) % n) [] := by
        rw [Queue.unread, count_stored hhead htail hroom]; rfl
    _ = q.unread n ++ [f] := by
        rw [List.range_succ, List.map_append, List.map_congr_left hold, List.map_singleton, hnew]; rfl

/-- A stored push of a frame that the queue admits leaves the ring within its bounds. -/
theorem boundsOk_stored {fmax : Nat} (hq : q.BoundsOk n fmax) (hroom : q.count n < n - 1) (hpos : 1 ≤ f.length)
    (hmax : f.length ≤ fmax) : (q.stored n f).BoundsOk n fmax := by
  obtain ⟨hlen, hhead, htail, hslots, hunread⟩ := hq
  refine ⟨List.length_set.trans hlen, nextIndex_lt (by omega) q.head, htail, fun g hg => ?_, fun g hg => ?_⟩
  · obtain hg | rfl := List.mem_or_eq_of_mem_set hg
    · exact hslots g hg
    · exact hmax
  · rw [unread_stored hlen hhead htail hroom, List.mem_append, List.mem_singleton] at hg
    obtain hg | rfl := hg
    · exact hunread g hg
    · exact hpos

/-! ### A pop of a frame -/

/-- The ring after a pop of a frame (R96). -/
def Queue.popped (q : Queue) (n : Nat) : Queue := { q with tail := nextIndex q.tail n }

theorem count_popped (hhead : q.head < n) (htail : q.tail < n) (hsome : q.count n ≠ 0) :
    (q.popped n).count n + 1 = q.count n := by
  have hnext : (q.popped n).tail < n := nextIndex_lt (by omega) q.tail
  rw [count_of_lt hhead htail] at hsome ⊢
  rw [count_of_lt (q := q.popped n) hhead hnext]
  simp only [Queue.popped, nextIndex_of_lt htail]
  split_ifs at hsome ⊢ <;> omega

/-- The unread frames of a ring that is not empty are the frame at the tail and those that a pop leaves (R96). -/
theorem unread_eq_cons_popped (hlen : q.slot.length = n) (hhead : q.head < n) (htail : q.tail < n) (hsome : q.count n ≠ 0) :
    q.unread n = q.slot[q.tail] :: (q.popped n).unread n := by
  have hfirst : q.slot.getD ((q.tail + 0) % n) [] = q.slot[q.tail] := by
    rw [Nat.add_zero, Nat.mod_eq_of_lt htail, List.getD_eq_getElem]
  have hrest : ∀ i, q.slot.getD ((q.tail + (i + 1)) % n) [] = q.slot.getD ((nextIndex q.tail n + i) % n) [] := by
    intro i
    rw [nextIndex, Nat.mod_add_mod, Nat.add_assoc, Nat.add_comm 1 i]
  rw [Queue.unread, ← count_popped hhead htail hsome, List.range_succ_eq_map, List.map_cons, List.map_map, hfirst]
  exact congrArg _ (List.map_congr_left fun i _ => hrest i)

/-- A pop of a frame leaves the ring within its bounds. -/
theorem boundsOk_popped {fmax : Nat} (hq : q.BoundsOk n fmax) (hsome : q.count n ≠ 0) : (q.popped n).BoundsOk n fmax := by
  obtain ⟨hlen, hhead, htail, hslots, hunread⟩ := hq
  rw [unread_eq_cons_popped hlen hhead htail hsome] at hunread
  exact ⟨hlen, hhead, nextIndex_lt (by omega) q.tail, hslots, (List.forall_mem_cons.1 hunread).2⟩

/-! ### The two operations -/

/-- R95: a push on a ring within its bounds counts a drop or appends its frame. -/
theorem push_refines {name : ArrayName} {fmax : Nat} (hq : q.BoundsOk n fmax) :
    ∃ q' b, push name n q f = .next (q', b) ∧
      (q.count n = n - 1 → b = false ∧ q' = { q with drops := q.drops + 1#32 }) ∧
      (q.count n < n - 1 → b = true ∧ q'.unread n = q.unread n ++ [f] ∧ q'.tail = q.tail ∧ q'.drops = q.drops) ∧
      (1 ≤ f.length → f.length ≤ fmax → q'.BoundsOk n fmax) := by
  have ⟨hlen, hhead, htail, _, _⟩ := hq
  have hfull := isFull_iff_count hhead htail
  have hlt : q.count n < n := count_lt (by omega)
  cases h : q.isFull n with
  | true =>
    have hcount := hfull.1 h
    exact ⟨_, _, push_eq_next.2 (.inl ⟨h, rfl⟩), fun _ => ⟨rfl, rfl⟩, fun hroom => absurd hcount hroom.ne, fun _ _ => hq⟩
  | false =>
    have hcount : q.count n ≠ n - 1 := fun hc => by simp [hfull.2 hc] at h
    have hroom : q.count n < n - 1 := by omega
    exact ⟨_, _, push_of_not_full (by omega) h, fun hc => absurd hc hcount,
      fun _ => ⟨rfl, unread_stored hlen hhead htail hroom, rfl, rfl⟩, boundsOk_stored hq hroom⟩

/-- R96: a pop on a ring within its bounds answers the first unread frame, if there is one, and leaves the rest. -/
theorem pop_refines {name : ArrayName} {fmax : Nat} (hq : q.BoundsOk n fmax) :
    ∃ q' r, pop name n q = .next (q', r) ∧ q'.BoundsOk n fmax ∧ q'.head = q.head ∧ q'.drops = q.drops ∧ q'.slot = q.slot ∧
      r = (q.unread n).head? ∧ q'.unread n = (q.unread n).tail := by
  have ⟨hlen, hhead, htail, _, _⟩ := hq
  have hempty := isEmpty_iff_count hhead htail
  cases h : q.isEmpty with
  | true =>
    have hnil : q.unread n = [] := List.eq_nil_of_length_eq_zero ((unread_length q n).trans (hempty.1 h))
    refine ⟨q, none, pop_eq_next.2 (.inl ⟨h, rfl⟩), hq, rfl, rfl, rfl, ?_, ?_⟩ <;> rw [hnil] <;> rfl
  | false =>
    have hsome : q.count n ≠ 0 := fun hc => by simp [hempty.2 hc] at h
    refine ⟨q.popped n, some q.slot[q.tail], pop_eq_next.2 (.inr ⟨h, _, List.getElem?_eq_getElem _, rfl⟩), boundsOk_popped hq hsome,
      rfl, rfl, rfl, ?_, ?_⟩ <;> rw [unread_eq_cons_popped hlen hhead htail hsome] <;> rfl

end Sys2Proof.Machine
end

section
/-!
CERTIFICATES. The statements of 10_state.md.
-/

namespace Sys2Proof.Machine

/-- Settles O52: the masks are zero at reset, and each update of a step keeps the triggered masks within the alive ones. -/
theorem triggeredStaysWithinAlive : Obligations.TriggeredStaysWithinAlive :=
  ⟨fun _ => ⟨BitVec.zero_and, BitVec.zero_and⟩, fun _ _ hs hstep => step_keeps trigWithinAlive_update hstep hs⟩

/-- Settles O54: no slot is active at reset, and each update of a step keeps the active jobs distinct. -/
theorem activeJobsStayUnique : Obligations.ActiveJobsStayUnique :=
  ⟨fun _ => ⟨JobTable.jobsUnique_reset _, JobTable.jobsUnique_reset _⟩, fun _ _ hs hstep => step_keeps jobsUnique_update hstep hs⟩

/-- Settles O27: the ring's unread frames are a sequence that `push_refines` and `pop_refines` say what becomes of. -/
theorem ringIsABoundedFifo : Obligations.RingIsABoundedFifo := by
  intro name n fmax q f hn hq
  have hcount : q.count n < n := count_lt (by omega)
  exact ⟨unread_length q n, by omega, push_refines hq, pop_refines hq⟩

/-- Settles O53: no address has bit 0, and each update of a step sets bits of an address only. -/
theorem bitZeroStaysClear : Obligations.BitZeroStaysClear :=
  fun _ _ hs hstep => step_keeps bitZeroClear_update hstep hs

end Sys2Proof.Machine
end

section
/-!
SUPPORT. The states from which nothing stops: within their bounds, in a well-formed configuration (00_scope.md R8, 20_memory.md R39).
The shared operations answer on them and keep them.
-/

namespace Sys2Proof.Machine

/-- The operation answers a result, no fault and no refusal, and the result has the property `P`. -/
abbrev Res.Answers {α : Type} (r : Res α) (P : α → Prop) : Prop := ∃ a, r = .next a ∧ P a

/-- `s` is within its bounds, in a well-formed configuration; the parts of `State.BoundsOk` by name, so that an update of one part is
checked at that part alone. -/
structure State.Ready (s : State) : Prop where
  conditions : s.params.Conditions
  map : s.cfg.length = s.params.maxCfg ∧ s.cfgCount ≤ s.params.maxCfg
  cursor : s.pollCur ≤ 255
  statusSlot : s.stBuf.length = s.params.statusBufCap ∧ s.stLen ≤ s.params.statusBufCap
  hp : s.hp.BoundsOk s.params.hostRxCap
  sp : s.sp.BoundsOk s.params.slaveRxCap
  slq : s.slq.BoundsOk s.params.slSlots s.params.slFrameMax
  pxq : s.pxq.BoundsOk s.params.pxSlots PX_FRAME_MAX
  slj : s.slj.BoundsOk s.params.slJobs
  pxj : s.pxj.BoundsOk s.params.pxJobs

variable {s : State}

theorem State.ready_iff : s.Ready ↔ s.params.Conditions ∧ s.BoundsOk := by
  constructor
  · rintro ⟨hok, ⟨hcfg, hcount⟩, hcursor, hstatus, hhp, hsp, hslq, hpxq, hslj, hpxj⟩
    exact ⟨hok, ⟨hcfg, hcount, hcursor⟩, hstatus, ⟨hhp, hsp⟩, ⟨hslq, hpxq⟩, hslj, hpxj⟩
  · rintro ⟨hok, ⟨hcfg, hcount, hcursor⟩, hstatus, ⟨hhp, hsp⟩, ⟨hslq, hpxq⟩, hslj, hpxj⟩
    exact ⟨hok, ⟨hcfg, hcount⟩, hcursor, hstatus, hhp, hsp, hslq, hpxq, hslj, hpxj⟩

/-! ### The configuration's sizes and frames -/

section
variable {p : Params} (hok : p.Conditions)
include hok

/-- The map has fewer entries than the status frame has bytes, so the poll cursor fits its range (R8). -/
theorem maxCfg_le : p.maxCfg ≤ 255 := by
  obtain ⟨⟨-, hstatus, -⟩, -⟩ := hok
  unfold Params.statusLen at hstatus
  omega

theorem slPoll_length (a : Byte) : 1 ≤ (p.slPoll a).length ∧ (p.slPoll a).length ≤ p.slFrameMax := by
  obtain ⟨-, -, ⟨hpoll, -⟩, -⟩ := hok
  exact FrameFn.frame_length hpoll a 0#8

theorem slLed_length (t i : Byte) : 1 ≤ (p.slLed t i).length ∧ (p.slLed t i).length ≤ p.slFrameMax := by
  obtain ⟨-, -, ⟨-, hled, -⟩, -⟩ := hok
  exact FrameFn.frame_length hled t i

theorem slOffFrame_length : 1 ≤ p.slOffFrame.length ∧ p.slOffFrame.length ≤ p.slFrameMax := by
  obtain ⟨-, -, ⟨-, -, hoff, -⟩, -⟩ := hok
  exact hoff

theorem pxLed_length (t i : Byte) : 1 ≤ (p.pxLed t i).length ∧ (p.pxLed t i).length ≤ PX_FRAME_MAX := by
  obtain ⟨-, -, ⟨-, -, -, hled, -⟩, -⟩ := hok
  exact FrameFn.frame_length hled t i

theorem pxOffFrame_length : 1 ≤ p.pxOffFrame.length ∧ p.pxOffFrame.length ≤ PX_FRAME_MAX := by
  obtain ⟨-, -, ⟨-, -, -, -, hoff, -⟩, -⟩ := hok
  exact hoff

end

/-! ### Ring buffers -/

section
variable {name : ArrayName} {n fmax : Nat} {q : Queue}

theorem push_answers {f : Bytes} (hq : q.BoundsOk n fmax) (hf : 1 ≤ f.length ∧ f.length ≤ fmax) :
    (push name n q f).Answers (fun r => r.1.BoundsOk n fmax) := by
  obtain ⟨hpos, hmax⟩ := hf
  obtain ⟨q', stored, hpush, -, -, hbounds⟩ := push_refines hq
  exact ⟨(q', stored), hpush, hbounds hpos hmax⟩

theorem pop_answers (hq : q.BoundsOk n fmax) : (pop name n q).Answers (fun r => r.1.BoundsOk n fmax) := by
  obtain ⟨q', r, hpop, hbounds, -⟩ := pop_refines hq
  exact ⟨(q', r), hpop, hbounds⟩

theorem boundsOk_queue_reset (hn : 0 < n) : (Queue.reset n).BoundsOk n fmax := by
  have hunread : (Queue.reset n).unread n = [] := by simp [Queue.unread, Queue.count, Queue.reset]
  refine ⟨List.length_replicate, hn, hn, fun f hf => ?_, fun f hf => ?_⟩
  · simp [List.eq_of_mem_replicate hf]
  · simp [hunread] at hf

end

/-! ### Job tables -/

section
variable {n : Nat} {j : JobTable}

theorem boundsOk_start (hj : j.BoundsOk n) (t i : Byte) (tick : U32) : (j.start t i tick).BoundsOk n := by
  rwa [JobTable.BoundsOk, start_length, start_cur]

theorem boundsOk_deactivate (hj : j.BoundsOk n) (hit : Job → Bool) : (j.deactivate hit).BoundsOk n := by
  rwa [JobTable.BoundsOk, deactivate_length, deactivate_cur]

/-- The scan reads slots of the table only, and finds one of them or none (R108). -/
theorem scanDue_answers {name : ArrayName} {tick : U32} (hj : j.BoundsOk n) (fuel off : Nat) :
    (scanDue name n j tick fuel off).Answers (fun found => ∀ k, found = some k → k < n) := by
  obtain ⟨hlen, hcur⟩ := hj
  induction fuel generalizing off with
  | zero => exact ⟨none, rfl, fun k hk => nomatch hk⟩
  | succ fuel ih =>
    have hslot : (j.cur + off) % n < n := Nat.mod_lt _ (by omega)
    rw [scanDue, memRead_of_lt (hlen ▸ hslot), andThen_next]
    split
    · exact ⟨_, rfl, fun k hk => Option.some.inj hk ▸ hslot⟩
    · exact ih (off + 1)

/-- `EmitOne` on a table and a queue within their bounds, with a builder whose frames the queue admits (R108). -/
theorem emitOne_answers {jn qn : ArrayName} {m fmax : Nat} {F : Byte → Byte → Bytes} {tick : U32} {q : Queue} (hj : j.BoundsOk n)
    (hq : q.BoundsOk m fmax) (hF : ∀ t i, 1 ≤ (F t i).length ∧ (F t i).length ≤ fmax) :
    (emitOne jn qn n m F tick j q).Answers (fun e => e.table.BoundsOk n ∧ e.queue.BoundsOk m fmax) := by
  have ⟨hlen, hcur⟩ := hj
  obtain ⟨found, hscan, hfound⟩ := scanDue_answers (name := jn) (tick := tick) hj n 0
  cases hactive : j.anyActive with
  | false => exact ⟨_, emitOne_eq_next.2 (.inl ⟨.inl hactive, rfl⟩), hj, hq⟩
  | true =>
    cases found with
    | none => exact ⟨_, emitOne_eq_next.2 (.inl ⟨.inr hscan, rfl⟩), hj, hq⟩
    | some k =>
      have hk : k < j.slots.length := hlen ▸ hfound k rfl
      obtain ⟨r, hpush, hr⟩ := push_answers (name := qn) hq (hF j.slots[k].target j.slots[k].ind)
      exact ⟨_, emitOne_eq_next.2 (.inr ⟨hactive, k, hscan, emitSlot_eq_next.2 ⟨_, r, List.getElem?_eq_getElem hk, hpush, rfl⟩⟩),
        ⟨List.length_set.trans hlen, nextIndex_lt (by omega) k⟩, hr⟩

theorem boundsOk_jobTable_reset (hn : 0 < n) : (JobTable.reset n).BoundsOk n := ⟨List.length_replicate, hn⟩

end

/-! ### The status frame -/

/-- A build reads the connector map below its count only (R113). -/
theorem resolve_answers (hs : s.Ready) (j : Nat) (force : U32) : ∃ r, resolve s j force = .next r := by
  obtain ⟨hlen, hcount⟩ := hs.map
  unfold resolve
  split_ifs with hj
  · exact ⟨_, rfl⟩
  · rw [memRead_of_lt (by omega)]
    exact ⟨_, rfl⟩

theorem resolveFrom_answers (hs : s.Ready) (n j : Nat) (force : U32) : ∃ r, resolveFrom s n j force = .next r := by
  induction n generalizing j force with
  | zero => exact ⟨_, rfl⟩
  | succ n ih =>
    obtain ⟨r, hr⟩ := resolve_answers hs j force
    obtain ⟨rest, hrest⟩ := ih (j + 1) r.2
    exact ⟨(r.1 :: rest.1, rest.2), by rw [resolveFrom, hr, andThen_next, hrest, andThen_next]⟩

theorem build_answers (hs : s.Ready) : (build s).Answers State.Ready := by
  obtain ⟨hlen, hst⟩ := hs.statusSlot
  cases hsize : s.statusOversize with
  | true => exact ⟨s, build_eq_next.2 (.inl ⟨hsize, rfl⟩), hs⟩
  | false =>
    have hfits : s.params.statusTotal ≤ s.params.statusBufCap := Nat.not_lt.1 (of_decide_eq_false hsize)
    obtain ⟨r, hr⟩ := resolveFrom_answers hs s.params.maxCfg 0 s.forceTrig
    have hframe : (statusFrame s.params s.statusExt r.1).length = s.params.statusTotal := by
      rw [statusFrame_length, resolveFrom_length hr, Params.statusTotal]
    have hbuf : (statusFrame s.params s.statusExt r.1 ++ s.stBuf.drop s.params.statusTotal).length = s.params.statusBufCap := by
      rw [List.length_append, List.length_drop, hframe, hlen, Nat.add_sub_cancel' hfits]
    exact ⟨_, build_eq_next.2 (.inr ⟨hsize, r, hr, hlen ▸ hfits, rfl⟩), { hs with statusSlot := ⟨hbuf, hfits⟩ }⟩

/-! ### The parsers -/

theorem boundsOk_parser_reset (cap : Nat) : (Parser.reset cap).BoundsOk cap :=
  ⟨List.length_replicate, le_rfl, Nat.zero_le cap, nofun, nofun⟩

theorem boundsOk_parseStart {p : Parser} {cap : Nat} (hp : p.BoundsOk cap) (b : Byte) : (parseStart p b).BoundsOk cap := by
  obtain ⟨hbuf, hidx, hlen, hcollect, hend⟩ := hp
  unfold parseStart
  split_ifs
  · exact ⟨hbuf, hidx, hlen, nofun, nofun⟩
  · exact ⟨hbuf, hidx, hlen, hcollect, hend⟩

/-- A length that is taken is at least 1 and at most the capacity (R82). -/
theorem boundsOk_parseLen {p : Parser} {cap : Nat} (hp : p.BoundsOk cap) (b : Byte) : (parseLen cap p b).BoundsOk cap := by
  obtain ⟨hbuf, hidx, hlen, -, -⟩ := hp
  unfold parseLen
  split_ifs with hb
  · exact ⟨hbuf, hidx, hlen, nofun, nofun⟩
  · obtain ⟨hzero, hcap⟩ := not_or.1 hb
    have hpos : 0 < b.toNat := Nat.pos_of_ne_zero fun h => hzero (BitVec.eq_of_toNat_eq h)
    exact ⟨hbuf, Nat.zero_le _, Nat.not_lt.1 hcap, fun _ => hpos, nofun⟩

/-- A byte of content is stored below the length, and the index after it stays within it (R83). -/
theorem boundsOk_collected {p : Parser} {cap : Nat} (hp : p.BoundsOk cap) (hstate : p.state = .collect) (b : Byte) :
    Parser.BoundsOk { p with buf := p.buf.set p.idx.toNat b, idx := p.idx + 1#8,
                             state := if p.idx + 1#8 = p.len then .waitEnd else .collect } cap := by
  obtain ⟨hbuf, -, hlen, hcollect, -⟩ := hp
  have hidx : p.idx.toNat < p.len.toNat := hcollect hstate
  have hnext : (p.idx + 1#8).toNat ≤ p.len.toNat := by bv_omega
  refine ⟨List.length_set.trans hbuf, hnext, hlen, ?_, ?_⟩ <;> split_ifs with heq
  · nofun
  · exact fun _ => Nat.lt_of_le_of_ne hnext fun h => heq (BitVec.eq_of_toNat_eq h)
  · exact fun _ => ⟨heq, Nat.zero_lt_of_lt hidx⟩
  · nofun

theorem parseByte_answers {name : ArrayName} {cap : Nat} {p : Parser} (hp : p.BoundsOk cap) (b : Byte) :
    (parseByte name cap p b).Answers (fun r => r.parser.BoundsOk cap) := by
  have ⟨hbuf, hidx, hlen, hcollect, _⟩ := hp
  have hidle : Parser.BoundsOk { p with state := .waitStart } cap := ⟨hbuf, hidx, hlen, nofun, nofun⟩
  cases hstate : p.state with
  | waitStart => exact ⟨_, parseByte_eq_next.2 (.inl ⟨hstate, rfl⟩), boundsOk_parseStart hp b⟩
  | waitLen => exact ⟨_, parseByte_eq_next.2 (.inr (.inl ⟨hstate, rfl⟩)), boundsOk_parseLen hp b⟩
  | collect =>
    have hin : p.idx.toNat < p.buf.length := by
      have := hcollect hstate
      omega
    exact ⟨_, parseByte_eq_next.2 (.inr (.inr (.inl ⟨hstate, hin, rfl⟩))), boundsOk_collected hp hstate b⟩
  | waitEnd =>
    by_cases hb : b = END
    · exact ⟨_, parseByte_eq_next.2 (.inr (.inr (.inr (.inr ⟨hstate, hb, hbuf ▸ hlen, rfl⟩)))), hidle⟩
    · exact ⟨_, parseByte_eq_next.2 (.inr (.inr (.inr (.inl ⟨hstate, hb, rfl⟩)))), hidle⟩

/-! ### Reset -/

/-- Reset is within its bounds in every well-formed configuration (10_state.md R37). -/
theorem resetWith_ready {p : Params} (hok : p.Conditions) : (State.resetWith p).Ready := by
  have ⟨⟨_, _, _, _, hsl, hpx, hslj, hpxj, _⟩, _⟩ := hok
  exact {
    conditions := hok
    map := ⟨List.length_replicate, Nat.zero_le _⟩
    cursor := Nat.zero_le _
    statusSlot := ⟨List.length_replicate, Nat.zero_le _⟩
    hp := boundsOk_parser_reset _
    sp := boundsOk_parser_reset _
    slq := boundsOk_queue_reset (by omega)
    pxq := boundsOk_queue_reset (by omega)
    slj := boundsOk_jobTable_reset hslj
    pxj := boundsOk_jobTable_reset hpxj }

theorem resetBlock_ready (hs : s.Ready) : (resetBlock s).Ready := { resetWith_ready hs.conditions with }

end Sys2Proof.Machine
end

section
/-!
SUPPORT. Every effect record, completed frame and port transaction answers a state within its bounds, from a state within its bounds
(20_memory.md R39, 60_exceptions.md R139).
-/

namespace Sys2Proof.Machine

variable {s : State}

/-! ### Effects -/

theorem uploadedMap_length_le (max n : Nat) (pairs : Bytes) : (uploadedMap max n pairs).length ≤ max := List.length_take_le _ _

theorem execEffMapUpload_answers (hs : s.Ready) (pl : Bytes) : (execEffMapUpload pl s).Answers State.Ready := by
  cases pl with
  | nil => exact ⟨s, rfl, hs⟩
  | cons n pairs =>
    obtain ⟨hlen, -⟩ := hs.map
    have hmax := uploadedMap_length_le s.params.maxCfg n.toNat pairs
    refine ⟨_, execEffMapUpload_eq_next.2 (.inr ⟨n, pairs, rfl, hlen ▸ hmax, rfl⟩), { hs with map := ⟨?_, hmax⟩ }⟩
    rw [List.length_append, List.length_drop, hlen, Nat.add_sub_cancel' hmax]

/-- A job operation that keeps a table within its bounds, with a selector in 0..1. -/
theorem onTable_answers {tbl : Byte} {op : JobTable → JobTable} (hs : s.Ready) (htbl : tbl = 0#8 ∨ tbl = 1#8)
    (hop : ∀ {j : JobTable} {n : Nat}, j.BoundsOk n → (op j).BoundsOk n) : (onTable tbl op s).Answers State.Ready := by
  obtain htbl | htbl := htbl
  · exact ⟨_, onTable_eq_next.2 (.inl ⟨htbl, rfl⟩), { hs with slj := hop hs.slj }⟩
  · exact ⟨_, onTable_eq_next.2 (.inr ⟨htbl, rfl⟩), { hs with pxj := hop hs.pxj }⟩

theorem execEffBcastReq_answers {tbl : Byte} (hs : s.Ready) (htbl : tbl = 0#8 ∨ tbl = 1#8) :
    (execEffBcastReq tbl s).Answers State.Ready := by
  obtain htbl | htbl := htbl
  · exact ⟨_, execEffBcastReq_eq_next.2 (.inl ⟨htbl, rfl⟩), { hs with }⟩
  · exact ⟨_, execEffBcastReq_eq_next.2 (.inr ⟨htbl, rfl⟩), { hs with }⟩

/-- A record with a code of R63 and a good selector is applied, whatever its other fields. -/
theorem applyEffect_answers {e : EffectRec} (hs : s.Ready) (he : e.Ok) : (applyEffect e s).Answers State.Ready := by
  obtain ⟨code, tbl, target, ind, all, mask, bytes⟩ := e
  obtain ⟨hcode, hsel⟩ : code ∈ effectCodes ∧ SelectorOk code tbl := he
  simp only [effectCodes, List.mem_cons, List.not_mem_nil, or_false] at hcode
  obtain rfl | rfl | rfl | rfl | rfl | rfl | rfl | rfl | rfl | rfl | rfl := hcode
  · exact execEffMapUpload_answers hs bytes
  · exact onTable_answers hs (hsel (by decide)) fun hj => boundsOk_start hj target ind s.tick
  · exact onTable_answers hs (hsel (by decide)) fun hj => boundsOk_deactivate hj _
  · exact onTable_answers hs (hsel (by decide)) fun hj => boundsOk_deactivate hj _
  · exact onTable_answers hs (hsel (by decide)) fun hj => boundsOk_deactivate hj _
  · exact execEffBcastReq_answers hs (hsel (by decide))
  · exact ⟨_, rfl, { hs with }⟩
  · exact ⟨_, rfl, { hs with }⟩
  · exact ⟨_, rfl, { hs with }⟩
  · exact ⟨_, rfl, { hs with }⟩
  · exact ⟨_, rfl, { hs with }⟩

theorem applyEffects_answers {es : List EffectRec} (hs : s.Ready) (hes : ∀ e ∈ es, e.Ok) :
    (applyEffects es s).Answers State.Ready := by
  induction es generalizing s with
  | nil => exact ⟨s, rfl, hs⟩
  | cons e es ih =>
    obtain ⟨he, hes⟩ := List.forall_mem_cons.1 hes
    obtain ⟨u, hu, hready⟩ := applyEffect_answers hs he
    obtain ⟨t, ht, hready⟩ := ih hready hes
    exact ⟨t, applyEffects_cons_eq_next.2 ⟨u, hu, ht⟩, hready⟩

/-! ### Frames and bytes -/

/-- A command's records are lawful in a well-formed configuration, so they are applied and the build follows (R125, R127). -/
theorem hostCommand_answers (hs : s.Ready) (sc g a : Byte) (pl : Bytes) : (hostCommand sc g a pl s).Answers State.Ready := by
  have hnote : (noteActivity s).Ready := { hs with }
  cases hd : s.params.dispatch sc g a pl with
  | none => exact ⟨_, hostCommand_eq_next.2 (.inl ⟨hd, rfl⟩), hnote⟩
  | some es =>
    have hes : ∀ e ∈ es, e.Ok := fun e he =>
      have ⟨hlawful, _⟩ := Params.dispatch_record_lawful hs.conditions hd he
      hlawful
    obtain ⟨u, hu, hready⟩ := applyEffects_answers hnote hes
    obtain ⟨t, ht, hready⟩ := build_answers hready
    exact ⟨t, hostCommand_eq_next.2 (.inr ⟨es, u, hd, hu, ht⟩), hready⟩

theorem hostFrame_answers (hs : s.Ready) (f : Bytes) : (hostFrame f s).Answers State.Ready := by
  obtain hf | ⟨sc, g, a, pl, hf⟩ := hostFrame_cases f s <;> rw [hf]
  · exact ⟨_, rfl, { hs with }⟩
  · exact hostCommand_answers hs sc g a pl

theorem statusReply_ready (hs : s.Ready) (addr state : Byte) : (statusReply addr state s).Ready := by
  obtain heq | heq | heq := statusReply_cases addr state s <;> rw [heq] <;> exact { hs with }

theorem slaveFrame_answers (hs : s.Ready) (f : Bytes) : (slaveFrame f s).Answers State.Ready := by
  obtain hf | ⟨a, st, -, hf⟩ := slaveFrame_cases f s <;> rw [hf]
  · exact ⟨s, rfl, hs⟩
  · exact ⟨_, rfl, statusReply_ready hs a st⟩

theorem handOn_answers {take : Bytes → State → Res State} (hs : s.Ready) (htake : ∀ f, (take f s).Answers State.Ready)
    (complete : Option Bytes) : (handOn take complete s).Answers State.Ready := by
  cases complete with
  | none => exact ⟨s, rfl, hs⟩
  | some f => exact htake f

theorem execHrx_answers (hs : s.Ready) (b : Byte) : (execHrx b s).Answers State.Ready := by
  obtain ⟨r, hparse, hr⟩ := parseByte_answers (name := .hpBuf) hs.hp b
  have hs' : State.Ready { s with hp := r.parser } := { hs with hp := hr }
  obtain ⟨u, hu, hready⟩ := handOn_answers hs' (hostFrame_answers hs') r.complete
  exact ⟨_, execHrx_eq_next.2 ⟨r, u, hparse, hu, rfl⟩, { hready with }⟩

theorem execSrx_answers (hs : s.Ready) (b : Byte) : (execSrx b s).Answers State.Ready := by
  obtain ⟨r, hparse, hr⟩ := parseByte_answers (name := .spBuf) hs.sp b
  have hs' : State.Ready { s with sp := r.parser } := { hs with sp := hr }
  obtain ⟨u, hu, hready⟩ := handOn_answers hs' (slaveFrame_answers hs') r.complete
  exact ⟨_, execSrx_eq_next.2 ⟨r, u, hparse, hu, rfl⟩, { hready with }⟩

/-! ### The tick -/

theorem serveSl_answers (hs : s.Ready) : (serveSl s).Answers State.Ready := by
  cases hpend : s.bcastPendSl with
  | false => exact ⟨s, serveSl_eq_next.2 (.inl ⟨hpend, rfl⟩), hs⟩
  | true =>
    obtain ⟨r, hpush, hr⟩ := push_answers (name := .slqSlot) hs.slq (slOffFrame_length hs.conditions)
    exact ⟨_, serveSl_eq_next.2 (.inr ⟨hpend, r, hpush, rfl⟩), { hs with slq := hr }⟩

theorem servePx_answers (hs : s.Ready) : (servePx s).Answers State.Ready := by
  cases hpend : s.bcastPendPx with
  | false => exact ⟨s, servePx_eq_next.2 (.inl ⟨hpend, rfl⟩), hs⟩
  | true =>
    obtain ⟨r, hpush, hr⟩ := push_answers (name := .pxqSlot) hs.pxq (pxOffFrame_length hs.conditions)
    exact ⟨_, servePx_eq_next.2 (.inr ⟨hpend, r, hpush, rfl⟩), { hs with pxq := hr }⟩

theorem serveBroadcasts_answers (hs : s.Ready) : (serveBroadcasts s).Answers State.Ready := by
  obtain ⟨u, hu, hready⟩ := serveSl_answers hs
  obtain ⟨t, ht, hready⟩ := servePx_answers hready
  exact ⟨t, serveBroadcasts_eq_next.2 ⟨u, hu, ht⟩, hready⟩

theorem idleTick_ready (hs : s.Ready) : (idleTick s).Ready := by
  unfold idleTick idleClear
  split_ifs <;> exact { hs with }

/-- The clamp and the commit keep the map and put the cursor below its count, where it is not empty (R74, R75). -/
theorem commitAtZero_clampCursor_ready (hs : s.Ready) (hcount : 0 < s.cfgCount) :
    (commitAtZero (clampCursor s)).Ready ∧ (commitAtZero (clampCursor s)).cfg = s.cfg ∧
      (commitAtZero (clampCursor s)).cfgCount = s.cfgCount ∧ (commitAtZero (clampCursor s)).pollCur < s.cfgCount := by
  have hclamp : (clampCursor s).Ready ∧ (clampCursor s).cfg = s.cfg ∧ (clampCursor s).cfgCount = s.cfgCount ∧
      (clampCursor s).pollCur < s.cfgCount := by
    unfold clampCursor
    split_ifs with hcur
    · exact ⟨{ hs with cursor := Nat.zero_le _ }, rfl, rfl, hcount⟩
    · exact ⟨hs, rfl, rfl, Nat.not_le.1 hcur⟩
  obtain ⟨hready, hkeep⟩ := hclamp
  unfold commitAtZero
  split_ifs
  · exact ⟨{ hready with }, hkeep⟩
  · exact ⟨hready, hkeep⟩

/-- A poll reads the map below its count, and moves the cursor below it (R74). -/
theorem pollOne_answers (hs : s.Ready) (hcount : 0 < s.cfgCount) : (pollOne s).Answers State.Ready := by
  obtain ⟨hready, hcfg, hcnt, hcur⟩ := commitAtZero_clampCursor_ready hs hcount
  obtain ⟨hlen, hmax⟩ := hs.map
  have hin : (commitAtZero (clampCursor s)).pollCur < s.cfg.length := by omega
  obtain ⟨r, hpush, hr⟩ := push_answers (name := .slqSlot) hready.slq (slPoll_length hready.conditions _)
  refine ⟨_, pollOne_eq_next.2 ⟨_, r, List.getElem?_eq_getElem hin, ?_, rfl⟩, { hready with slq := hr, cursor := ?_ }⟩
  · rw [← (commitAtZero_clampCursor_sameOutside s).params]
    exact hpush
  · have hnext := Nat.mod_lt ((commitAtZero (clampCursor s)).pollCur + 1) (hcnt ▸ hcount)
    exact hnext.le.trans (hcnt ▸ hmax.trans (maxCfg_le hs.conditions))

theorem slaveLinkTurn_answers (hs : s.Ready) : (slaveLinkTurn s).Answers State.Ready := by
  obtain ⟨e, he, htable, hqueue⟩ := emitOne_answers (jn := .sljSlot) (qn := .slqSlot) (tick := s.tick) hs.slj hs.slq
    (slLed_length hs.conditions)
  cases hemit : e.emitted with
  | true => exact ⟨_, slaveLinkTurn_eq_next.2 ⟨e, he, .inl ⟨hemit, rfl⟩⟩, { hs with slj := htable, slq := hqueue }⟩
  | false =>
    cases hled : s.ledActive with
    | true => exact ⟨_, slaveLinkTurn_eq_next.2 ⟨e, he, .inr (.inl ⟨hemit, hled, rfl⟩)⟩, { hs with cursor := Nat.zero_le _ }⟩
    | false =>
      obtain hcount | hcount := s.cfgCount.eq_zero_or_pos
      · exact ⟨s, slaveLinkTurn_eq_next.2 ⟨e, he, .inr (.inr (.inr ⟨hemit, hled, hcount, rfl⟩))⟩, hs⟩
      · obtain ⟨t, ht, hready⟩ := pollOne_answers hs hcount
        exact ⟨t, slaveLinkTurn_eq_next.2 ⟨e, he, .inr (.inr (.inl ⟨hemit, hled, hcount, ht⟩))⟩, hready⟩

theorem pixelTurn_answers (hs : s.Ready) : (pixelTurn s).Answers State.Ready := by
  obtain ⟨e, he, htable, hqueue⟩ := emitOne_answers (jn := .pxjSlot) (qn := .pxqSlot) (tick := s.tick) hs.pxj hs.pxq
    (pxLed_length hs.conditions)
  exact ⟨_, pixelTurn_eq_next.2 ⟨e, he, rfl⟩, { hs with pxj := htable, pxq := hqueue }⟩

theorem execTick_answers (hs : s.Ready) : (execTick s).Answers State.Ready := by
  obtain ⟨u, hu, hready⟩ := serveBroadcasts_answers (s := tickAdvance s) { hs with }
  cases hidle : u.isIdle with
  | true => exact ⟨_, execTick_eq_next.2 ⟨u, hu, .inl ⟨hidle, rfl⟩⟩, { idleTick_ready hready with }⟩
  | false =>
    obtain ⟨v, hv, hready⟩ := slaveLinkTurn_answers (s := { u with idleCleared := false }) { hready with }
    obtain ⟨w, hw, hready⟩ := pixelTurn_answers (s := emit .pxRequestFlush v) { hready with }
    exact ⟨_, execTick_eq_next.2 ⟨u, hu, .inr ⟨hidle, v, w, hv, hw, rfl⟩⟩, { hready with }⟩

/-! ### The consumer's and the button's transactions -/

theorem execBtn_answers (hs : s.Ready) (bits : Byte) : (execBtn bits s).Answers State.Ready := by
  obtain ⟨u, hu, hready⟩ := build_answers (s := { s with statusExt := s.statusExt ||| bits }) { hs with }
  exact ⟨_, andThen_eq_next.2 ⟨u, hu, rfl⟩, { hready with }⟩

theorem execSlqPop_answers (hs : s.Ready) : (execSlqPop s).Answers State.Ready := by
  obtain ⟨r, hpop, hr⟩ := pop_answers (name := .slqSlot) hs.slq
  exact ⟨_, andThen_eq_next.2 ⟨r, hpop, rfl⟩, { hs with slq := hr }⟩

theorem execPxqPop_answers (hs : s.Ready) : (execPxqPop s).Answers State.Ready := by
  obtain ⟨r, hpop, hr⟩ := pop_answers (name := .pxqSlot) hs.pxq
  exact ⟨_, andThen_eq_next.2 ⟨r, hpop, rfl⟩, { hs with pxq := hr }⟩

/-- What a peek answers: that the status slot is empty, or the frame in it (R120). -/
def State.peekResponse (s : State) : Response := if s.stLen = 0 then .empty else .frame (s.stBuf.take s.stLen)

/-- A peek of a slot within its bounds responds, and does nothing else (R120). -/
theorem execStPeek_eq_respond (h : s.stLen ≤ s.stBuf.length) : execStPeek s = .next (respond s.peekResponse s) := by
  unfold execStPeek State.peekResponse
  split_ifs
  · rfl
  · rw [memReadFirst_of_le h, andThen_next]

theorem execStPeek_answers (hs : s.Ready) : (execStPeek s).Answers State.Ready := by
  obtain ⟨hlen, hst⟩ := hs.statusSlot
  exact ⟨_, execStPeek_eq_respond (hlen ▸ hst), { hs with }⟩

theorem execStSent_answers (hs : s.Ready) : (execStSent s).Answers State.Ready := by
  obtain ⟨hlen, -⟩ := hs.statusSlot
  exact ⟨_, rfl, { hs with statusSlot := ⟨hlen, Nat.zero_le _⟩ }⟩

/-! ### Port words and steps -/

theorem plainWord_eq_ok {a owner : Agent} {w : PortWord} {i j : Instr} (h : plainWord a owner w i = .ok j) : j = i := by
  unfold plainWord at h
  split_ifs at h
  exact (Except.ok.inj h).symm

theorem operandWord_eq_ok {a owner : Agent} {w : PortWord} {i : Byte → Instr} {j : Instr} (h : operandWord a owner w i = .ok j) :
    j = i (portData w) := by
  unfold operandWord at h
  split_ifs at h
  exact (Except.ok.inj h).symm

/-- A port word stands for a port transaction, and for no frame or effect row (R50, R52). -/
theorem decodePort_portTransaction {a : Agent} {w : PortWord} {i : Instr} (h : decodePort a w = .ok i) : portTransaction i = true := by
  unfold decodePort at h
  split at h
  case h_2 | h_6 | h_7 | h_8 | h_9 | h_10 | h_11 => rw [plainWord_eq_ok h]; rfl
  case h_3 | h_4 | h_5 => rw [operandWord_eq_ok h]; rfl
  all_goals rw [← Except.ok.inj h]; rfl

theorem exec_answers {i : Instr} (hi : portTransaction i = true) (hs : s.Ready) : Res.Answers (exec i s) State.Ready := by
  cases i with
  | tick => exact execTick_answers hs
  | hrx b => exact execHrx_answers hs b
  | srx b => exact execSrx_answers hs b
  | btn bits => exact execBtn_answers hs bits
  | slqPop => exact execSlqPop_answers hs
  | pxqPop => exact execPxqPop_answers hs
  | stPeek => exact execStPeek_answers hs
  | stSent => exact execStSent_answers hs
  | slqDrops | pxqDrops => exact ⟨_, rfl, { hs with }⟩
  | reservedOp0 low | reservedOpB low | reservedOpC low | reservedOpD low | reservedOpE low | reservedOpF low =>
    exact ⟨_, rfl, { hs with }⟩
  | _ => exact absurd hi Bool.false_ne_true

/-- Whatever is presented, a step from a state within its bounds answers one (R39, R139). -/
theorem step_answers (hs : s.Ready) : Res.Answers (step s) State.Ready := by
  have hok := s.params.ok_iff.2 hs.conditions
  cases hport : s.port with
  | nil => exact ⟨s, step_eq_next.2 ⟨hok, .inl ⟨hport, rfl⟩⟩, hs⟩
  | cons input rest =>
    cases input with
    | rst =>
      have hreset := resetBlock_ready (s := { s with port := rest }) { hs with }
      exact ⟨_, step_eq_next.2 ⟨hok, .inr (.inl ⟨rest, hport, rfl⟩)⟩, hreset⟩
    | word a w =>
      have haccept : (accept a rest s).Ready := { hs with }
      cases hd : decodePort a w with
      | ok i =>
        obtain ⟨t, ht, hready⟩ := exec_answers (decodePort_portTransaction hd) haccept
        exact ⟨t, step_eq_next.2 ⟨hok, .inr (.inr ⟨a, w, rest, hport, .inl ⟨i, hd, ht⟩⟩)⟩, hready⟩
      | error e => exact ⟨_, step_eq_next.2 ⟨hok, .inr (.inr ⟨a, w, rest, hport, .inr ⟨e, hd, rfl⟩⟩)⟩, { haccept with }⟩

/-! ### Transactions that only respond -/

/-- A transaction that responds alike whatever the observation so far is repeated alike (R43). -/
theorem exec_repeats {i : Instr} {r : Response}
    (h : ∀ o, exec i { s with obs := o } = .next (respond r { s with obs := o })) :
    exec i s = .next { s with obs := s.obs ++ [.resp s.issuer r] } ∧
      exec i { s with obs := s.obs ++ [.resp s.issuer r] } = .next { s with obs := s.obs ++ [.resp s.issuer r, .resp s.issuer r] } := by
  refine ⟨h s.obs, (h _).trans ?_⟩
  simp [respond]

end Sys2Proof.Machine
end

section
/-!
CERTIFICATES. The statements of 20_memory.md.
-/

namespace Sys2Proof.Machine

/-- Settles O49: a step from a state within its bounds answers one, and each update of a step keeps the three invariants of the masks
and the job tables. -/
theorem stepNeverStops : Obligations.StepNeverStops := by
  rintro s ⟨hok, hbounds, htrig, hzero, hjobs⟩
  obtain ⟨t, hstep, hready⟩ := step_answers (State.ready_iff.2 ⟨s.params.ok_iff.1 hok, hbounds⟩)
  obtain ⟨hok', hbounds'⟩ := State.ready_iff.1 hready
  exact ⟨t, hstep, t.params.ok_iff.2 hok', hbounds', step_keeps trigWithinAlive_update hstep htrig,
    step_keeps bitZeroClear_update hstep hzero, step_keeps jobsUnique_update hstep hjobs⟩

/-- Settles O48: what a peek answers is in the status slot and what a read of drops answers in the queue, which no response writes. -/
theorem readOnlyTransactionsRepeat : Obligations.ReadOnlyTransactionsRepeat := by
  rintro s ⟨-, ⟨hlen, hst⟩, -⟩ i hi
  simp only [List.mem_cons, List.not_mem_nil, or_false] at hi
  obtain rfl | rfl | rfl := hi
  · exact ⟨s.peekResponse, exec_repeats fun o => execStPeek_eq_respond (s := { s with obs := o }) (hlen ▸ hst)⟩
  · exact ⟨.value s.slq.drops, exec_repeats fun _ => rfl⟩
  · exact ⟨.value s.pxq.drops, exec_repeats fun _ => rfl⟩

end Sys2Proof.Machine
end

section
/-!
SUPPORT. Port words by their fields (30_encoding.md R50): which are illegal (R52), which row each of the others belongs to, and what
accepting one does.
-/

namespace Sys2Proof.Machine

variable {a owner : Agent} {w : PortWord}

/-! ### Fields -/

theorem portOp_toNat (w : PortWord) : (portOp w).toNat = w.toNat / 2 ^ 12 := by
  have hw : w.toNat < 2 ^ 16 := w.isLt
  rw [portOp, BitVec.extractLsb'_toNat, Nat.shiftRight_eq_div_pow, Nat.mod_eq_of_lt (by omega)]

theorem portRes_toNat (w : PortWord) : (portRes w).toNat = w.toNat / 2 ^ 8 % 2 ^ 4 := by
  rw [portRes, BitVec.extractLsb'_toNat, Nat.shiftRight_eq_div_pow]

theorem portData_toNat (w : PortWord) : (portData w).toNat = w.toNat % 2 ^ 8 := by
  rw [portData, BitVec.extractLsb'_toNat, Nat.shiftRight_zero]

/-- A word is its three fields, one after the other. -/
theorem portFields_append (w : PortWord) : portOp w ++ (portRes w ++ portData w) = w := by
  have hlow : portRes w ++ portData w = w.extractLsb' 0 (4 + 8) := BitVec.extractLsb'_append_extractLsb'_eq_extractLsb' rfl
  have hword : portOp w ++ w.extractLsb' 0 (4 + 8) = w.extractLsb' 0 (4 + (4 + 8)) :=
    BitVec.extractLsb'_append_extractLsb'_eq_extractLsb' rfl
  rw [hlow, hword, BitVec.extractLsb'_eq_self]

/-- A word with `RES = 0` is the encoder's word of its other two fields. -/
theorem portWordOf_fields (h : portRes w = 0#4) : portWordOf (portOp w) (portData w) = w := by
  rw [portWordOf, ← h, portFields_append]

/-! ### Rows by `OP` -/

/-- The reserved values of `OP` (R52). -/
abbrev ReservedOp (op : BitVec 4) : Prop := op.toNat = 0 ∨ 11 ≤ op.toNat

/-- The values of `OP` whose `DATA` is an operand (R53). -/
abbrev OperandOp (op : BitVec 4) : Prop := op.toNat ∈ [2, 3, 4]

/-- R52's conditions, on the fields of the word and the agent of its row. -/
theorem illegalWord_iff : illegalWord a w = true ↔
    ReservedOp (portOp w) ∨ portRes w ≠ 0#4 ∨ (¬ OperandOp (portOp w) ∧ portData w ≠ 0#8) ∨ a ≠ ownerOfOp (portOp w) := by
  unfold illegalWord
  simp only [← portOp_toNat, ← portRes_toNat, ← portData_toNat, Bool.or_eq_true, Bool.and_eq_true, decide_eq_true_eq, or_assoc,
    BitVec.toNat_ne (n := 4), BitVec.toNat_ne (n := 8)]
  rfl

/-- Every word is in a reserved row, which answers `ILLEGAL`, or in the row of its `OP` and that row's agent, with or without an
operand. -/
theorem decodePort_rows (a : Agent) (w : PortWord) :
    (ReservedOp (portOp w) ∧ ∃ i, decodePort a w = .ok i ∧ ∀ s, exec i s = .next (refusePortWord s)) ∨
    (¬ ReservedOp (portOp w) ∧ OperandOp (portOp w) ∧ ∃ i : Byte → Instr,
      decodePort a w = operandWord a (ownerOfOp (portOp w)) w i ∧
      ∀ p b, encode p (i b) = .port (ownerOfOp (portOp w)) (portWordOf (portOp w) b)) ∨
    (¬ ReservedOp (portOp w) ∧ ¬ OperandOp (portOp w) ∧ ∃ i : Instr,
      decodePort a w = plainWord a (ownerOfOp (portOp w)) w i ∧
      ∀ p, encode p i = .port (ownerOfOp (portOp w)) (portWordOf (portOp w) 0#8)) := by
  have hval : portOp w = BitVec.ofNat 4 (portOp w).toNat := by rw [BitVec.ofNat_toNat, BitVec.setWidth_eq]
  have hlt : (portOp w).toNat < 16 := (portOp w).isLt
  unfold decodePort
  split <;> rename_i hop
  case h_1 => exact .inl ⟨.inl hop, _, rfl, fun _ => rfl⟩
  case h_12 | h_13 | h_14 | h_15 => exact .inl ⟨.inr (by omega), _, rfl, fun _ => rfl⟩
  case h_16 =>
    -- the last arm takes every other value, and of a four-bit field only 15 is left
    refine .inl ⟨.inr ?_, _, rfl, fun _ => rfl⟩
    simp only [imp_false] at *
    omega
  case h_3 | h_4 | h_5 =>
    rw [hval, hop]
    exact .inr (.inl ⟨by decide, by decide, _, rfl, fun _ _ => rfl⟩)
  all_goals
    rw [hval, hop]
    exact .inr (.inr ⟨by decide, by decide, _, rfl, fun _ => rfl⟩)

/-! ### Legal and illegal words -/

theorem operandWord_eq_of_legal {i : Byte → Instr} (hres : portRes w = 0#4) (ha : a = owner) :
    operandWord a owner w i = .ok (i (portData w)) := by
  simp [operandWord, hres, ha]

theorem operandWord_eq_of_illegal {i : Byte → Instr} (h : portRes w ≠ 0#4 ∨ a ≠ owner) :
    ∃ e, operandWord a owner w i = .error e := by
  unfold operandWord
  split_ifs with hres ha
  · exact ⟨_, rfl⟩
  · exact ⟨_, rfl⟩
  · exact (h.elim hres ha).elim

theorem plainWord_eq_of_legal {i : Instr} (hres : portRes w = 0#4) (hdata : portData w = 0#8) (ha : a = owner) :
    plainWord a owner w i = .ok i := by
  simp [plainWord, hres, hdata, ha]

theorem plainWord_eq_of_illegal {i : Instr} (h : portRes w ≠ 0#4 ∨ portData w ≠ 0#8 ∨ a ≠ owner) :
    ∃ e, plainWord a owner w i = .error e := by
  unfold plainWord
  split_ifs with hres hdata ha
  · exact ⟨_, rfl⟩
  · exact ⟨_, rfl⟩
  · exact ⟨_, rfl⟩
  · exact (h.elim hres (Or.rec hdata ha)).elim

/-- An illegal word decodes to no instruction, or to one that answers `ILLEGAL` (R52). -/
theorem decodePort_of_illegal (h : illegalWord a w = true) :
    (∃ e, decodePort a w = .error e) ∨ ∃ i, decodePort a w = .ok i ∧ ∀ s, exec i s = .next (refusePortWord s) := by
  rw [illegalWord_iff] at h
  obtain ⟨-, hrow⟩ | ⟨hop, hoperand, i, hrow, -⟩ | ⟨hop, hoperand, i, hrow, -⟩ := decodePort_rows a w
  · exact .inr hrow
  · exact .inl (hrow ▸ operandWord_eq_of_illegal (by tauto))
  · exact .inl (hrow ▸ plainWord_eq_of_illegal (by tauto))

/-- A legal word decodes to the instruction it is the encoding of (R50, R52). -/
theorem decodePort_of_legal (h : illegalWord a w = false) (p : Params) :
    ∃ i, decodePort a w = .ok i ∧ encode p i = .port a w := by
  simp only [Bool.eq_false_iff, ne_eq, illegalWord_iff, not_or, not_and_or, not_not] at h
  obtain ⟨hlegal, hres, hdata, rfl⟩ := h
  obtain ⟨hop, -⟩ | ⟨-, hoperand, i, hrow, henc⟩ | ⟨-, hplain, i, hrow, henc⟩ := decodePort_rows (ownerOfOp (portOp w)) w
  · exact absurd hop (not_or.2 hlegal)
  · exact ⟨_, hrow.trans (operandWord_eq_of_legal hres rfl), by rw [henc, portWordOf_fields hres]⟩
  · have hzero : portData w = 0#8 := hdata.resolve_left hplain
    exact ⟨_, hrow.trans (plainWord_eq_of_legal hres hzero rfl), by rw [henc, ← hzero, portWordOf_fields hres]⟩

theorem acceptWord_of_illegal (h : illegalWord a w = true) (rest : List PortInput) (s : State) :
    acceptWord a w rest s = .next (refusePortWord (accept a rest s)) := by
  obtain ⟨e, herr⟩ | ⟨i, hrow, hexec⟩ := decodePort_of_illegal h
  · simp only [acceptWord, herr]
  · simp only [acceptWord, hrow, hexec]

theorem step_of_word {s : State} {rest : List PortInput} (hok : s.params.ok = true) (hport : s.port = .word a w :: rest) :
    step s = acceptWord a w rest s := by
  simp only [step, hok, if_true, acceptInput, hport]

end Sys2Proof.Machine
end

section
/-!
SUPPORT. A parser given several bytes, and the collection of a frame's content (30_encoding.md R61, 42_parsers.md R81 to R84).
-/

namespace Sys2Proof.Machine

variable {name : ArrayName} {cap : Nat} {p q r : Parser}

/-! ### Several bytes -/

theorem parseAll_cons {b : Byte} {bs : Bytes} {complete : Option Bytes} {out : List Bytes}
    (hb : parseByte name cap p b = .next { parser := q, complete := complete }) (hbs : parseAll name cap bs q = .next (r, out)) :
    parseAll name cap (b :: bs) p = .next (r, complete.toList ++ out) := by
  rw [parseAll, hb, andThen_next, hbs, andThen_next]

theorem parseAll_append {bs cs : Bytes} {out out' : List Bytes} (hbs : parseAll name cap bs p = .next (q, out))
    (hcs : parseAll name cap cs q = .next (r, out')) : parseAll name cap (bs ++ cs) p = .next (r, out ++ out') := by
  induction bs generalizing p out with
  | nil =>
    obtain ⟨rfl, rfl⟩ := Prod.mk.inj (Host.Outcome.next.inj hbs)
    exact hcs
  | cons b bs ih =>
    obtain ⟨⟨p', complete⟩, hb, hrest⟩ := andThen_eq_next.1 hbs
    obtain ⟨⟨q', out₁⟩, hbs', heq⟩ := andThen_eq_next.1 hrest
    obtain ⟨rfl, rfl⟩ := Prod.mk.inj (Host.Outcome.next.inj heq)
    rw [List.append_assoc]
    exact parseAll_cons hb (ih hbs')

/-! ### The content -/

/-- The parser has taken `got` of a content of `n` bytes: it waits for the others, or for END when it has them all. -/
structure Parser.HasTaken (p : Parser) (cap n : Nat) (got : Bytes) : Prop where
  size : p.buf.length = cap
  fits : n ≤ cap
  len : p.len.toNat = n
  idx : p.idx.toNat = got.length
  content : p.buf.take got.length = got
  state : p.state = if p.idx = p.len then .waitEnd else .collect

/-- A START byte and a length that fits begin a content (R81, R82). -/
theorem parseAll_header {n : Nat} (hstate : p.state = .waitStart) (hsize : p.buf.length = cap) (hpos : 1 ≤ n) (hcap : n ≤ cap)
    (hbyte : n ≤ 255) : ∃ q, parseAll name cap [START, BitVec.ofNat 8 n] p = .next (q, []) ∧ q.HasTaken cap n [] := by
  have hn : (BitVec.ofNat 8 n).toNat = n := by rw [BitVec.toNat_ofNat, Nat.mod_eq_of_lt (by omega)]
  have hzero : BitVec.ofNat 8 n ≠ 0#8 := by
    rw [BitVec.toNat_ne, hn]
    exact Nat.ne_of_gt hpos
  have hstart : parseByte name cap p START = .next { parser := { p with state := .waitLen } } :=
    parseByte_eq_next.2 (.inl ⟨hstate, by rw [parseStart, if_pos rfl]⟩)
  have hlen : parseByte name cap { p with state := .waitLen } (BitVec.ofNat 8 n) =
      .next { parser := { p with len := BitVec.ofNat 8 n, idx := 0#8, state := .collect } } :=
    parseByte_eq_next.2 (.inr (.inl ⟨rfl, by rw [parseLen, hn, if_neg (not_or.2 ⟨hzero, Nat.not_lt.2 hcap⟩)]⟩))
  exact ⟨_, parseAll_cons hstart (parseAll_cons hlen rfl), hsize, hcap, hn, rfl, rfl, (if_neg hzero.symm).symm⟩

/-- A content byte is taken whatever its value (R61, R83). -/
theorem parseByte_takes {n : Nat} {got : Bytes} (h : p.HasTaken cap n got) (hmore : got.length < n) (b : Byte) :
    ∃ q, parseByte name cap p b = .next { parser := q } ∧ q.HasTaken cap n (got ++ [b]) := by
  obtain ⟨hsize, hfits, hlen, hidx, hcontent, hstate⟩ := h
  have hcollect : p.state = .collect := by
    rw [hstate, if_neg]
    rw [← BitVec.toNat_inj]
    omega
  have hin : p.idx.toNat < p.buf.length := by omega
  have hnext : (p.idx + 1#8).toNat = got.length + 1 := by bv_omega
  refine ⟨_, parseByte_eq_next.2 (.inr (.inr (.inl ⟨hcollect, hin, rfl⟩))), List.length_set.trans hsize, hfits, hlen,
    by rw [hnext, List.length_append]; rfl, ?_, rfl⟩
  rw [List.length_append, List.length_singleton, List.take_add_one, hidx, List.take_set_of_le le_rfl, hcontent,
    List.getElem?_set_self (hidx ▸ hin)]
  rfl

/-- The bytes that are missing from a content complete it (R61). -/
theorem parseAll_takes {n : Nat} {got f : Bytes} (h : p.HasTaken cap n got) (hf : got.length + f.length = n) :
    ∃ q, parseAll name cap f p = .next (q, []) ∧ q.HasTaken cap n (got ++ f) := by
  induction f generalizing p got with
  | nil => exact ⟨p, rfl, by rwa [List.append_nil]⟩
  | cons b f ih =>
    rw [List.length_cons] at hf
    obtain ⟨q, hb, hq⟩ := parseByte_takes (name := name) h (by omega) b
    obtain ⟨r, hrest, hr⟩ := ih hq (by rw [List.length_append, List.length_singleton]; omega)
    exact ⟨r, parseAll_cons hb hrest, by rwa [List.append_assoc] at hr⟩

/-- END after a whole content hands it on (R84). -/
theorem parseByte_completes {f : Bytes} (h : p.HasTaken cap f.length f) :
    parseByte name cap p END = .next { parser := { p with state := .waitStart }, complete := some f } := by
  obtain ⟨hsize, hfits, hlen, hidx, hcontent, hstate⟩ := h
  have hend : p.state = .waitEnd := by rw [hstate, if_pos (BitVec.eq_of_toNat_eq (hidx.trans hlen.symm))]
  refine parseByte_eq_next.2 (.inr (.inr (.inr (.inr ⟨hend, rfl, by omega, ?_⟩))))
  rw [hlen, hcontent]

end Sys2Proof.Machine
end

section
/-!
SUPPORT. The slave-link frames that carry `SC_SLAVE` (30_encoding.md R57) and the push that makes one; what becomes of a table selector
outside 0..1 (46_host_commands.md section 2).
-/

namespace Sys2Proof

theorem FrameFn.frame_carries {f : FrameFn} (h : f.CarriesSlave) (x y : Byte) : SC_SLAVE ∈ f.frame x y := by
  obtain ⟨hlayout, hspecial⟩ := h
  obtain ⟨e, he, hframe⟩ | hframe := f.frame_cases x y
  · exact hframe ▸ hspecial e he
  · exact hframe ▸ List.mem_map_of_mem (f := FrameByte.value x y) hlayout

end Sys2Proof

namespace Sys2Proof.Machine

/-! ### Slave-link frames -/

theorem slaveLink_carries {p : Params} (hok : p.Conditions) (k : SlaveLinkFrame) : SC_SLAVE ∈ p.slaveLink k := by
  obtain ⟨-, -, ⟨-, -, -, -, -, hled, hoff⟩, -⟩ := hok
  cases k with
  | led t i => exact FrameFn.frame_carries hled t i
  | off => exact hoff

theorem slaveLink_length {p : Params} (hok : p.Conditions) (k : SlaveLinkFrame) :
    1 ≤ (p.slaveLink k).length ∧ (p.slaveLink k).length ≤ p.slFrameMax := by
  cases k with
  | led t i => exact slLed_length hok t i
  | off => exact slOffFrame_length hok

/-- A push onto `slq` counts a drop on a full queue, and else stores the frame at the head (43_tx_queues.md R95). -/
theorem pushSl_of_lt {s : State} {f : Bytes} (h : s.slq.head < s.slq.slot.length) :
    pushSl f s = .next { s with
      slq := if nextIndex s.slq.head s.params.slSlots = s.slq.tail then { s.slq with drops := s.slq.drops + 1#32 }
             else s.slq.stored s.params.slSlots f } := by
  rw [pushSl, push_of_lt h, andThen_next]
  simp only [Queue.isFull, decide_eq_true_eq]
  split_ifs <;> rfl

/-! ### Table selectors -/

theorem onTable_of_bad_selector {tbl : Byte} (h0 : tbl ≠ 0#8) (h1 : tbl ≠ 1#8) (op : JobTable → JobTable) (s : State) :
    onTable tbl op s = .refused (.badTableSelector tbl) := by
  rw [onTable, if_neg h0, if_neg h1]

theorem execEffBcastReq_of_bad_selector {tbl : Byte} (h0 : tbl ≠ 0#8) (h1 : tbl ≠ 1#8) (s : State) :
    execEffBcastReq tbl s = .refused (.badTableSelector tbl) := by
  rw [execEffBcastReq, if_neg h0, if_neg h1]

end Sys2Proof.Machine
end

section
/-!
CERTIFICATES. The statements of 30_encoding.md.
-/

namespace Sys2Proof.Machine

/-- Settles O3: R52's conditions are where the decoder rejects a word or names a reserved row; elsewhere it undoes the encoder. -/
theorem portWordsRunOrAreRefused : Obligations.PortWordsRunOrAreRefused := by
  intro s a w rest hok hport
  rw [step_of_word hok hport]
  refine ⟨fun hillegal => acceptWord_of_illegal hillegal rest s, fun hlegal => ?_⟩
  obtain ⟨i, hdecode, hencode⟩ := decodePort_of_legal hlegal s.params
  exact ⟨i, hencode, by rw [acceptWord, hdecode]; rfl⟩

/-- Settles O11: START and the length begin a content, each of whose bytes is stored whatever it is, by induction; END hands it on. -/
theorem parserTakesAnyContent : Obligations.ParserTakesAnyContent := by
  intro name cap p f hstate hsize hpos hcap hbyte
  obtain ⟨q, hheader, hq⟩ := parseAll_header (name := name) hstate hsize hpos hcap (hcap.trans hbyte)
  obtain ⟨r, hcontent, hr⟩ := parseAll_takes (name := name) hq (Nat.zero_add _)
  exact ⟨_, parseAll_append (parseAll_append hheader hcontent) (parseAll_cons (parseByte_completes hr) rfl), rfl, hr.size⟩

/-- Settles O30: the configuration's conditions are on the two frames; the head of a queue within its bounds is a slot of it. -/
theorem slaveLinkFramesArePushed : Obligations.SlaveLinkFramesArePushed := by
  rintro s k hok ⟨-, -, -, ⟨⟨hlen, hhead, -⟩, -⟩, -⟩
  have hcond := s.params.ok_iff.1 hok
  obtain ⟨hpos, hmax⟩ := slaveLink_length hcond k
  exact ⟨slaveLink_carries hcond k, hpos, hmax, pushSl_of_lt (hlen.symm ▸ hhead)⟩

/-- Settles O1: each example evaluates to its row. -/
theorem exampleWordsDecodeToTheirRows : Obligations.ExampleWordsDecodeToTheirRows :=
  ⟨rfl, rfl, rfl, rfl, rfl, rfl, rfl, rfl⟩

/-- Settles O8: each of the six meanings is the refusal of R52. -/
theorem reservedWordsAnswerIllegal : Obligations.ReservedWordsAnswerIllegal := by
  intro s low i hi
  simp only [List.mem_cons, List.not_mem_nil, or_false] at hi
  obtain rfl | rfl | rfl | rfl | rfl | rfl := hi <;> rfl

/-- Settles O25: the four job effects choose their table in one place, and the broadcast request its flag; both refuse other selectors. -/
theorem illFormedEffectsAreRefused : Obligations.IllFormedEffectsAreRefused := by
  intro s code tbl t i
  refine ⟨rfl, fun h0 h1 e he => ?_⟩
  simp only [List.mem_cons, List.not_mem_nil, or_false] at he
  obtain rfl | rfl | rfl | rfl | rfl := he
  · exact onTable_of_bad_selector h0 h1 (·.start t i s.tick) s
  · exact onTable_of_bad_selector h0 h1 (·.stopInd i) s
  · exact onTable_of_bad_selector h0 h1 JobTable.stopAll s
  · exact onTable_of_bad_selector h0 h1 (·.removeExcept t i) s
  · exact execEffBcastReq_of_bad_selector h0 h1 s

end Sys2Proof.Machine
end

section
/-!
SUPPORT. What pushes and one emission make of a queue, as frames taken (43_tx_queues.md R95, 44_led_jobs.md R108).
-/

namespace Sys2Proof.Machine

variable {name jn qn : ArrayName} {n m fmax : Nat} {q q' : Queue} {f : Bytes}

/-- A push on a ring within its bounds takes its frame, stored or dropped (R95). -/
theorem push_took {r : Queue × Bool} (hq : q.BoundsOk n fmax) (h : push name n q f = .next r) : q.TookFrames n [f] r.1 := by
  have ⟨_, hhead, _⟩ := hq
  have hlt : q.count n < n := count_lt (by omega)
  obtain ⟨q', stored, hpush, hfull, hroom, -⟩ := push_refines (name := name) (f := f) hq
  obtain rfl := Host.Outcome.next.inj (h.symm.trans hpush)
  obtain hcount | hcount : q.count n = n - 1 ∨ q.count n < n - 1 := by omega
  · obtain ⟨-, rfl⟩ := hfull hcount
    rw [Queue.TookFrames, hcount, Nat.sub_self]
    exact ⟨(List.append_nil _).symm, rfl, rfl⟩
  · obtain ⟨-, hunread, htail, hdrops⟩ := hroom hcount
    have htake : [f].take (n - 1 - q.count n) = [f] := List.take_of_length_le (by rw [List.length_singleton]; omega)
    have hdropped : [f].length - (n - 1 - q.count n) = 0 := by rw [List.length_singleton]; omega
    rw [Queue.TookFrames, htake, hdropped]
    exact ⟨hunread, hdrops.trans (BitVec.add_zero _).symm, htail⟩

/-- `q'` is the queue of `n` slots `q` after a push of at most one frame, which has the property `P`. -/
def Queue.TookAtMostOne (n : Nat) (P : Bytes → Prop) (q q' : Queue) : Prop :=
  ∃ fs, q.TookFrames n fs q' ∧ fs.length ≤ 1 ∧ ∀ f ∈ fs, P f

variable {P Q : Bytes → Prop}

theorem tookAtMostOne_refl (n : Nat) (P : Bytes → Prop) (q : Queue) : q.TookAtMostOne n P q :=
  ⟨[], tookFrames_nil n q, Nat.zero_le 1, nofun⟩

theorem tookAtMostOne_of_push {r : Queue × Bool} (hq : q.BoundsOk n fmax) (h : push name n q f = .next r) (hf : P f) :
    q.TookAtMostOne n P r.1 :=
  ⟨[f], push_took hq h, le_rfl, List.forall_mem_singleton.2 hf⟩

theorem Queue.TookAtMostOne.mono (h : q.TookAtMostOne n P q') (hPQ : ∀ f, P f → Q f) : q.TookAtMostOne n Q q' := by
  obtain ⟨fs, htook, hlen, hfs⟩ := h
  exact ⟨fs, htook, hlen, fun f hf => hPQ f (hfs f hf)⟩

/-- `f` is the frame that `F` builds for an active job of the table that is due at `tick` (44_led_jobs.md R103). -/
def JobTable.DueFrame (j : JobTable) (F : Byte → Byte → Bytes) (tick : U32) (f : Bytes) : Prop :=
  ∃ k ∈ j.slots, k.active = true ∧ 0 ≤ sdiff32 tick k.next ∧ f = F k.target k.ind

theorem Job.isDue_iff {k : Job} {tick : U32} : k.isDue tick = true ↔ k.active = true ∧ 0 ≤ sdiff32 tick k.next := by
  rw [Job.isDue, Bool.and_eq_true, decide_eq_true_iff]

/-- The slot that the scan finds is due (R108). -/
theorem scanDue_isDue {j : JobTable} {tick : U32} {fuel off k : Nat} (h : scanDue name n j tick fuel off = .next (some k)) :
    ∃ job, j.slots[k]? = some job ∧ job.isDue tick = true := by
  induction fuel generalizing off with
  | zero => exact nomatch Host.Outcome.next.inj h
  | succ fuel ih =>
    obtain ⟨job, hread, hscan⟩ := andThen_eq_next.1 h
    split at hscan
    case isTrue hdue =>
      obtain rfl := Option.some.inj (Host.Outcome.next.inj hscan)
      exact ⟨job, memRead_eq_next.1 hread, hdue⟩
    case isFalse => exact ih hscan

/-- `EmitOne` pushes the frame of a due job, or none (R108). -/
theorem emitOne_took {F : Byte → Byte → Bytes} {tick : U32} {j : JobTable} {e : Emission} (hq : q.BoundsOk m fmax)
    (h : emitOne jn qn n m F tick j q = .next e) : q.TookAtMostOne m (j.DueFrame F tick) e.queue := by
  obtain ⟨-, rfl⟩ | ⟨-, k, hscan, hslot⟩ := emitOne_eq_next.1 h
  · exact tookAtMostOne_refl m _ q
  · obtain ⟨job, r, hjob, hpush, rfl⟩ := emitSlot_eq_next.1 hslot
    obtain ⟨found, hfound, hdue⟩ := scanDue_isDue hscan
    obtain rfl := Option.some.inj (hjob.symm.trans hfound)
    obtain ⟨hactive, hnext⟩ := Job.isDue_iff.1 hdue
    exact tookAtMostOne_of_push hq hpush ⟨job, List.mem_of_getElem? hjob, hactive, hnext, rfl⟩

end Sys2Proof.Machine
end

section
/-!
SUPPORT. What one `TICK` does, part by part: the broadcasts served (41_tick_scheduler.md R69), the idle path (R70 to R72), and the branch
taken where it is not idle (R73 to R76).
-/

namespace Sys2Proof.Machine

variable {s t u v : State}

theorem ready_of_inv (hs : s.Inv) : s.Ready := by
  obtain ⟨hok, hbounds, -⟩ := hs
  exact State.ready_iff.2 ⟨s.params.ok_iff.1 hok, hbounds⟩

/-- `TICK` reads the state through what serving its broadcasts makes of it (R67). -/
theorem execTick_congr (h : serveBroadcasts (tickAdvance s) = serveBroadcasts (tickAdvance t)) : execTick s = execTick t := by
  rw [execTick, h, execTick]

/-! ### The broadcasts -/

theorem serveSl_of_not_pending (h : s.bcastPendSl = false) : serveSl s = .next s := serveSl_eq_next.2 (.inl ⟨h, rfl⟩)

theorem servePx_of_not_pending (h : s.bcastPendPx = false) : servePx s = .next s := servePx_eq_next.2 (.inl ⟨h, rfl⟩)

theorem serveSl_of_pending {r : Queue × Bool} (h : s.bcastPendSl = true)
    (hpush : push .slqSlot s.params.slSlots s.slq s.params.slOffFrame = .next r) :
    serveSl s = .next { s with slq := r.1, bcastPendSl := false } :=
  serveSl_eq_next.2 (.inr ⟨h, r, hpush, rfl⟩)

theorem servePx_of_pending {r : Queue × Bool} (h : s.bcastPendPx = true)
    (hpush : push .pxqSlot s.params.pxSlots s.pxq s.params.pxOffFrame = .next r) :
    servePx s = .next { s with pxq := r.1, bcastPendPx := false } :=
  servePx_eq_next.2 (.inr ⟨h, r, hpush, rfl⟩)

theorem serveBroadcasts_of_not_pending (hsl : s.bcastPendSl = false) (hpx : s.bcastPendPx = false) :
    serveBroadcasts s = .next s :=
  serveBroadcasts_eq_next.2 ⟨s, serveSl_of_not_pending hsl, servePx_of_not_pending hpx⟩

/-- A pending slave-link broadcast is served as if it had been pushed before (R69). -/
theorem serveBroadcasts_of_pendingSl {r : Queue × Bool} (h : s.bcastPendSl = true)
    (hpush : push .slqSlot s.params.slSlots s.slq s.params.slOffFrame = .next r) :
    serveBroadcasts s = serveBroadcasts { s with slq := r.1, bcastPendSl := false } := by
  rw [serveBroadcasts, serveSl_of_pending h hpush, serveBroadcasts, serveSl_of_not_pending rfl]

/-- A pending pixel-strip broadcast is served as if it had been pushed before: the slave-link one does not touch its channel (R69). -/
theorem serveBroadcasts_of_pendingPx {r : Queue × Bool} (hq : s.slq.head < s.slq.slot.length) (h : s.bcastPendPx = true)
    (hpush : push .pxqSlot s.params.pxSlots s.pxq s.params.pxOffFrame = .next r) :
    serveBroadcasts s = serveBroadcasts { s with pxq := r.1, bcastPendPx := false } := by
  have hlast (q : Queue) (pend : Bool) :
      servePx { s with slq := q, bcastPendSl := pend } =
        servePx { s with slq := q, bcastPendSl := pend, pxq := r.1, bcastPendPx := false } := by
    rw [servePx_of_pending (s := { s with slq := q, bcastPendSl := pend }) h hpush, servePx_of_not_pending rfl]
  unfold serveBroadcasts
  by_cases hsl : s.bcastPendSl = true
  · have hslPush := push_of_lt (name := .slqSlot) (n := s.params.slSlots) (f := s.params.slOffFrame) hq
    rw [serveSl_of_pending hsl hslPush, serveSl_of_pending (s := { s with pxq := r.1, bcastPendPx := false }) hsl hslPush]
    exact hlast _ false
  · rw [Bool.not_eq_true] at hsl
    rw [serveSl_of_not_pending hsl, serveSl_of_not_pending (s := { s with pxq := r.1, bcastPendPx := false }) hsl]
    exact hlast s.slq s.bcastPendSl

theorem serveSl_took (hs : s.Ready) : ∃ q, serveSl s = .next { s with slq := q, bcastPendSl := false } ∧
    q.BoundsOk s.params.slSlots s.params.slFrameMax ∧
    s.slq.TookFrames s.params.slSlots (if s.bcastPendSl then [s.params.slOffFrame] else []) q := by
  cases h : s.bcastPendSl with
  | false => exact ⟨s.slq, by rw [serveSl_of_not_pending h, ← h], hs.slq, tookFrames_nil _ _⟩
  | true =>
    obtain ⟨r, hpush, hr⟩ := push_answers (name := .slqSlot) hs.slq (slOffFrame_length hs.conditions)
    exact ⟨r.1, serveSl_of_pending h hpush, hr, push_took hs.slq hpush⟩

theorem servePx_took (hs : s.Ready) : ∃ q, servePx s = .next { s with pxq := q, bcastPendPx := false } ∧
    q.BoundsOk s.params.pxSlots PX_FRAME_MAX ∧
    s.pxq.TookFrames s.params.pxSlots (if s.bcastPendPx then [s.params.pxOffFrame] else []) q := by
  cases h : s.bcastPendPx with
  | false => exact ⟨s.pxq, by rw [servePx_of_not_pending h, ← h], hs.pxq, tookFrames_nil _ _⟩
  | true =>
    obtain ⟨r, hpush, hr⟩ := push_answers (name := .pxqSlot) hs.pxq (pxOffFrame_length hs.conditions)
    exact ⟨r.1, servePx_of_pending h hpush, hr, push_took hs.pxq hpush⟩

/-- The state with its broadcasts served, `q` and `q'` being the two queues then. -/
def State.served (s : State) (q q' : Queue) : State :=
  { s with slq := q, pxq := q', bcastPendSl := false, bcastPendPx := false }

/-- Serving the broadcasts writes the two queues, which take the pending broadcasts, and the two flags (R69). -/
theorem serveBroadcasts_took (hs : s.Ready) : ∃ q q', serveBroadcasts s = .next (s.served q q') ∧ (s.served q q').Ready ∧
    s.slq.TookFrames s.params.slSlots (if s.bcastPendSl then [s.params.slOffFrame] else []) q ∧
    s.pxq.TookFrames s.params.pxSlots (if s.bcastPendPx then [s.params.pxOffFrame] else []) q' := by
  obtain ⟨q, hsl, hq, hslTook⟩ := serveSl_took hs
  obtain ⟨q', hpx, hq', hpxTook⟩ := servePx_took (s := { s with slq := q, bcastPendSl := false }) { hs with slq := hq }
  exact ⟨q, q', serveBroadcasts_eq_next.2 ⟨_, hsl, hpx⟩, { hs with slq := hq, pxq := hq' }, hslTook, hpxTook⟩

/-! ### The idle path -/

/-- The signed difference is the unsigned one below 2^31, and 2^32 less from there on (00_scope.md R11). -/
theorem sdiff32_eq (a b : U32) :
    sdiff32 a b = if 2 * (a - b).toNat < 2 ^ 32 then ((a - b).toNat : Int) else (a - b).toNat - 2 ^ 32 :=
  BitVec.toInt_eq_toNat_cond (a - b)

theorem isIdle_iff : s.isIdle = true ↔ (s.params.idleTicks : Int) ≤ sdiff32 s.tick s.lastActivity := decide_eq_true_iff

/-- The whole effect of the idle path (R71). -/
theorem idleTick_eq (s : State) : idleTick s = { s with
    bcastPendSl := true
    bcastPendPx := true
    idleCleared := true
    obs := s.obs ++ (if s.idleCleared then [] else [.event .pxClearAll]) ++ [.event .pxRequestFlush] } := by
  cases h : s.idleCleared <;> simp [idleTick, idleClear, emit, h]

/-- An idle `TICK`, once its broadcasts are served (R70, R71). -/
theorem execTick_of_idle (hserve : serveBroadcasts (tickAdvance s) = .next u) (hidle : u.isIdle = true) :
    execTick s = .next { u with
      bcastPendSl := true
      bcastPendPx := true
      idleCleared := true
      obs := u.obs ++ (if u.idleCleared then [] else [.event .pxClearAll]) ++ [.event .pxRequestFlush, .resp u.issuer .ack] } := by
  refine execTick_eq_next.2 ⟨u, hserve, .inl ⟨hidle, ?_⟩⟩
  simp [idleTick_eq, respond]

/-- What `k` idle `TICK`s make of `s`, each but the first sending both broadcasts (R71, R72). -/
structure State.IdleTicks (s : State) (k : Nat) (t : State) : Prop where
  params : t.params = s.params
  lastActivity : t.lastActivity = s.lastActivity
  tick : t.tick = s.tick + BitVec.ofNat 32 k
  idleCleared : t.idleCleared = true
  bcastPendSl : t.bcastPendSl = true
  bcastPendPx : t.bcastPendPx = true
  clears : t.obs.count (.event .pxClearAll) = s.obs.count (.event .pxClearAll) + (if s.idleCleared then 0 else 1)
  flushes : t.obs.count (.event .pxRequestFlush) = s.obs.count (.event .pxRequestFlush) + k
  slq : s.slq.TookFrames s.params.slSlots (List.replicate (if s.bcastPendSl then k else k - 1) s.params.slOffFrame) t.slq
  pxq : s.pxq.TookFrames s.params.pxSlots (List.replicate (if s.bcastPendPx then k else k - 1) s.params.pxOffFrame) t.pxq

/-- The frames of one idle tick. -/
theorem replicate_pending {α : Type} (pending : Bool) (f : α) :
    List.replicate (if pending then 1 else 1 - 1) f = if pending then [f] else [] := by
  cases pending <;> rfl

/-- The frames of `i` idle ticks, then those of `j` more, each of which finds its broadcast pending. -/
theorem replicate_idle_append {α : Type} (pending : Bool) (i j : Nat) (hi : 1 ≤ i) (f : α) :
    List.replicate (if pending then i else i - 1) f ++ List.replicate j f =
      List.replicate (if pending then i + j else i + j - 1) f := by
  rw [List.replicate_append_replicate]
  congr 1
  split_ifs <;> omega

/-- `j` idle ticks after `i` idle ticks: the pixel buffer is cleared already, and both broadcasts are pending (R72). -/
theorem State.IdleTicks.trans {i j : Nat} (hi : 1 ≤ i) (h₁ : s.IdleTicks i u) (h₂ : u.IdleTicks j t) : s.IdleTicks (i + j) t := by
  have hsl := h₂.slq
  have hpx := h₂.pxq
  rw [h₁.bcastPendSl, if_pos rfl, h₁.params] at hsl
  rw [h₁.bcastPendPx, if_pos rfl, h₁.params] at hpx
  exact {
    params := h₂.params.trans h₁.params
    lastActivity := h₂.lastActivity.trans h₁.lastActivity
    tick := by rw [h₂.tick, h₁.tick, BitVec.add_assoc, BitVec.ofNat_add]
    idleCleared := h₂.idleCleared
    bcastPendSl := h₂.bcastPendSl
    bcastPendPx := h₂.bcastPendPx
    clears := by rw [h₂.clears, h₁.idleCleared, if_pos rfl, Nat.add_zero, h₁.clears]
    flushes := by rw [h₂.flushes, h₁.flushes, Nat.add_assoc]
    slq := replicate_idle_append s.bcastPendSl i j hi _ ▸ tookFrames_append h₁.slq hsl
    pxq := replicate_idle_append s.bcastPendPx i j hi _ ▸ tookFrames_append h₁.pxq hpx }

/-- An idle `TICK` sends the pending broadcasts, and no other frame (R69, R71). -/
theorem execTick_idleTicks (hs : s.Ready) (hidle : (s.params.idleTicks : Int) ≤ sdiff32 (s.tick + 1#32) s.lastActivity) :
    ∃ t, execTick s = .next t ∧ s.IdleTicks 1 t := by
  obtain ⟨q, q', hserve, -, hsl, hpx⟩ := serveBroadcasts_took (s := tickAdvance s) { hs with }
  exact ⟨_, execTick_of_idle hserve (isIdle_iff.2 hidle), {
    params := rfl
    lastActivity := rfl
    tick := rfl
    idleCleared := rfl
    bcastPendSl := rfl
    bcastPendPx := rfl
    clears := by
      cases h : s.idleCleared <;> simp [State.served, h]
    flushes := by
      cases h : s.idleCleared <;> simp [State.served, h]
    slq := by
      rw [replicate_pending]
      exact hsl
    pxq := by
      rw [replicate_pending]
      exact hpx }⟩

/-- A `TICK` presented in an idle episode. -/
theorem step_idleTicks {rest : List PortInput} (hs : s.Inv) (hport : s.port = .word .tickSrc 0x1000#16 :: rest)
    (hidle : (s.params.idleTicks : Int) ≤ sdiff32 (s.tick + 1#32) s.lastActivity) :
    ∃ t, step s = .next t ∧ t.Inv ∧ t.port = rest ∧ s.IdleTicks 1 t := by
  have ⟨hok, _⟩ := hs
  obtain ⟨t, hstep, hinv⟩ := stepNeverStops s hs
  obtain ⟨t', htick, hticks⟩ := execTick_idleTicks (s := accept .tickSrc rest s) { ready_of_inv hs with } hidle
  have haccept : step s = execTick (accept .tickSrc rest s) := step_of_word hok hport
  obtain rfl := Host.Outcome.next.inj (hstep.symm.trans (haccept.trans htick))
  exact ⟨t, hstep, hinv, by rw [step_port hstep, hport]; rfl, { hticks with }⟩

/-- Consecutive idle `TICK`s, by induction on their number (R72). -/
theorem run_idleTicks (k : Nat) (hs : s.Inv) (hport : s.port = List.replicate (k + 1) (.word .tickSrc 0x1000#16))
    (hidle : ∀ i : Nat, 1 ≤ i → i ≤ k + 1 → (s.params.idleTicks : Int) ≤ sdiff32 (s.tick + BitVec.ofNat 32 i) s.lastActivity) :
    ∃ t, Host.Core.run core (k + 1) s = .next t ∧ s.IdleTicks (k + 1) t := by
  induction k generalizing s with
  | zero =>
    obtain ⟨t, hstep, -, -, ht⟩ := step_idleTicks hs hport (hidle 1 le_rfl le_rfl)
    exact ⟨t, (run_succ_eq_next core).2 ⟨t, hstep, rfl⟩, ht⟩
  | succ k ih =>
    obtain ⟨u, hstep, hinv, hrest, hu⟩ := step_idleTicks hs hport (hidle 1 le_rfl (by omega))
    have hlater : ∀ i : Nat, 1 ≤ i → i ≤ k + 1 →
        (u.params.idleTicks : Int) ≤ sdiff32 (u.tick + BitVec.ofNat 32 i) u.lastActivity := by
      intro i _ hi
      rw [hu.params, hu.lastActivity, hu.tick, BitVec.add_assoc, ← BitVec.ofNat_add]
      exact hidle (1 + i) (by omega) (by omega)
    obtain ⟨t, hrun, ht⟩ := ih hinv hrest hlater
    exact ⟨t, (run_succ_eq_next core).2 ⟨u, hstep, hrun⟩, Nat.add_comm 1 (k + 1) ▸ hu.trans le_rfl ht⟩

/-! ### The path that is not idle -/

/-- A `TICK` that is not idle, once its broadcasts are served: the branch of step 4, the flush, the pixel-strip emission (R73, R76). -/
theorem execTick_of_active {x : Emission} (hserve : serveBroadcasts (tickAdvance s) = .next u) (hactive : u.isIdle = false)
    (hturn : slaveLinkTurn { u with idleCleared := false } = .next v) (hx : emitPx v = .next x) :
    execTick s = .next { v with
      pxj := x.table
      pxq := x.queue
      obs := v.obs ++ [.event .pxRequestFlush, .resp v.issuer .ack] } := by
  refine execTick_eq_next.2 ⟨u, hserve, .inr ⟨hactive, v, _, hturn, pixelTurn_eq_next.2 ⟨x, hx, rfl⟩, ?_⟩⟩
  simp [respond, emit]

/-- The poll cursor after the clamp (R74). -/
def State.clampedCur (s : State) : Nat := if s.cfgCount ≤ s.pollCur then 0 else s.pollCur

theorem clampedCur_lt (h : 0 < s.cfgCount) : s.clampedCur < s.cfgCount := by
  unfold State.clampedCur
  split_ifs <;> omega

/-- The state before a poll: the cursor is clamped, and the round is committed where it is zero then (R74, R75). -/
theorem commitAtZero_clampCursor_eq (s : State) : commitAtZero (clampCursor s) = { s with
    pollCur := s.clampedCur
    alive := if s.clampedCur = 0 then s.roundAlive else s.alive
    trig := if s.clampedCur = 0 then s.roundTrig &&& s.roundAlive else s.trig
    roundAlive := if s.clampedCur = 0 then 0#32 else s.roundAlive
    roundTrig := if s.clampedCur = 0 then 0#32 else s.roundTrig } := by
  have hclamp : clampCursor s = { s with pollCur := s.clampedCur } := by
    unfold clampCursor State.clampedCur
    split_ifs <;> rfl
  rw [hclamp, commitAtZero]
  split_ifs <;> rfl

/-- A poll with a map that is not empty: one entry is polled, the cursor goes on, and the round is committed at zero (R74, R75). -/
theorem pollOne_polls_entry (hs : s.Ready) (hcount : 0 < s.cfgCount) :
    ∃ a q b, s.cfg[s.clampedCur]? = some a ∧ push .slqSlot s.params.slSlots s.slq (s.params.slPoll a) = .next (q, b) ∧
      pollOne s = .next { s with
        slq := q
        pollCur := (s.clampedCur + 1) % s.cfgCount
        alive := if s.clampedCur = 0 then s.roundAlive else s.alive
        trig := if s.clampedCur = 0 then s.roundTrig &&& s.roundAlive else s.trig
        roundAlive := if s.clampedCur = 0 then 0#32 else s.roundAlive
        roundTrig := if s.clampedCur = 0 then 0#32 else s.roundTrig } := by
  obtain ⟨t, ht, -⟩ := pollOne_answers hs hcount
  obtain ⟨a, ⟨q, b⟩, ha, hpush, rfl⟩ := pollOne_eq_next.1 ht
  rw [commitAtZero_clampCursor_eq] at ha hpush ht
  exact ⟨a, q, b, ha, hpush, ht⟩

/-- `f` is a frame that the slave-link turn may push: of a due job, or the poll of a mapped connector (R73, R74). -/
def State.OwedSl (s : State) (f : Bytes) : Prop :=
  s.slj.DueFrame s.params.slLed s.tick f ∨ ∃ a ∈ s.cfg.take s.cfgCount, f = s.params.slPoll a

theorem pollOne_took (hs : s.Ready) (hcount : 0 < s.cfgCount) (h : pollOne s = .next t) :
    s.slq.TookAtMostOne s.params.slSlots s.OwedSl t.slq := by
  obtain ⟨a, q, b, ha, hpush, hpoll⟩ := pollOne_polls_entry hs hcount
  obtain rfl := Host.Outcome.next.inj (hpoll.symm.trans h)
  have hmapped : a ∈ s.cfg.take s.cfgCount :=
    List.mem_of_getElem? ((List.getElem?_take_of_lt (clampedCur_lt hcount)).trans ha)
  exact tookAtMostOne_of_push hs.slq hpush (.inr ⟨a, hmapped, rfl⟩)

/-- Step 4 pushes one frame at most onto `slq` (R73). -/
theorem slaveLinkTurn_took (hs : s.Ready) (h : slaveLinkTurn s = .next t) :
    s.slq.TookAtMostOne s.params.slSlots s.OwedSl t.slq := by
  obtain ⟨e, he, ⟨-, rfl⟩ | ⟨-, -, rfl⟩ | ⟨-, -, hcount, hpoll⟩ | ⟨-, -, -, rfl⟩⟩ := slaveLinkTurn_eq_next.1 h
  · exact (emitOne_took hs.slq he).mono fun _ => .inl
  · exact tookAtMostOne_refl _ _ _
  · exact pollOne_took hs hcount hpoll
  · exact tookAtMostOne_refl _ _ _

/-- Step 4 leaves what the pixel-strip emission reads (R73, R76). -/
theorem slaveLinkTurn_emitPx (h : slaveLinkTurn s = .next t) : emitPx t = emitPx s := by
  obtain ⟨e, -, ⟨-, rfl⟩ | ⟨-, -, rfl⟩ | ⟨-, -, -, hpoll⟩ | ⟨-, -, -, rfl⟩⟩ := slaveLinkTurn_eq_next.1 h
  · rfl
  · rfl
  · obtain ⟨a, r, -, -, rfl⟩ := pollOne_eq_next.1 hpoll
    rw [commitAtZero_clampCursor_eq]
    rfl
  · rfl

end Sys2Proof.Machine
end

section
/-!
CERTIFICATES. The statements of 41_tick_scheduler.md.
-/

namespace Sys2Proof.Machine

/-- Settles O35: either broadcast is served as if it had been pushed before, and a queue within its bounds answers a push. -/
theorem tickServesBroadcastsFirst : Obligations.TickServesBroadcastsFirst := by
  rintro s ⟨-, -, -, ⟨hslq, hpxq⟩, -⟩
  have ⟨hlen, hhead, _⟩ := hslq
  constructor <;> intro hpend
  · obtain ⟨q, b, hpush, -⟩ := push_refines (name := .slqSlot) (f := s.params.slOffFrame) hslq
    exact ⟨q, b, hpush, execTick_congr (serveBroadcasts_of_pendingSl (s := tickAdvance s) hpend hpush)⟩
  · obtain ⟨q, b, hpush, -⟩ := push_refines (name := .pxqSlot) (f := s.params.pxOffFrame) hpxq
    exact ⟨q, b, hpush,
      execTick_congr (serveBroadcasts_of_pendingPx (s := tickAdvance s) (hlen.symm ▸ hhead) hpend hpush)⟩

/-- Settles O37: by induction on the number of `TICK`s, each of which makes what one idle `TICK` makes. -/
theorem idleEpisodeClearsThePixelBufferOnce : Obligations.IdleEpisodeClearsThePixelBufferOnce := by
  intro s k hs hk hport hidle
  obtain ⟨k, rfl⟩ := Nat.exists_eq_add_of_le' hk
  obtain ⟨t, hrun, ht⟩ := run_idleTicks k hs hport hidle
  exact ⟨t, hrun, ht.tick, ht.idleCleared, ht.bcastPendSl, ht.bcastPendPx, ht.clears, ht.flushes, ht.slq, ht.pxq⟩

/-- Settles O38: the branch of step 4 is the one that `slaveLinkTurn_eq_next` names; the pixel-strip emission reads nothing it writes. -/
theorem activeTickTakesOneBranch : Obligations.ActiveTickTakesOneBranch := by
  intro s hinv hsl hpx hactive
  have hs : s.Ready := ready_of_inv hinv
  have hserve : serveBroadcasts (tickAdvance s) = .next (tickAdvance s) := serveBroadcasts_of_not_pending hsl hpx
  have hnot : (tickAdvance s).isIdle = false := decide_eq_false (Int.not_le.2 hactive)
  obtain ⟨e, he, -⟩ := emitOne_answers (jn := .sljSlot) (qn := .slqSlot) (tick := s.tick + 1#32) hs.slj hs.slq
    (slLed_length hs.conditions)
  obtain ⟨x, hx, -⟩ := emitOne_answers (jn := .pxjSlot) (qn := .pxqSlot) (tick := s.tick + 1#32) hs.pxj hs.pxq
    (pxLed_length hs.conditions)
  have turn {v : State} := slaveLinkTurn_eq_next (s := { s with tick := s.tick + 1#32, idleCleared := false }) (t := v)
  refine ⟨e, x, he, hx, fun hemit => ?_, fun hemit hled => ?_, fun hemit hled hcount => ?_, fun hemit hled hcount => ?_⟩
  · refine (execTick_of_active hserve hnot (turn.2 ⟨e, he, .inl ⟨hemit, rfl⟩⟩) hx).trans ?_
    simp [emit]
  · exact execTick_of_active hserve hnot (turn.2 ⟨e, he, .inr (.inl ⟨hemit, hled, rfl⟩)⟩) hx
  · exact execTick_of_active hserve hnot (turn.2 ⟨e, he, .inr (.inr (.inr ⟨hemit, hled, hcount, rfl⟩))⟩) hx
  · have hready : State.Ready { s with tick := s.tick + 1#32, idleCleared := false } := { hs with }
    obtain ⟨a, q, b, ha, hpush, hpoll⟩ := pollOne_polls_entry hready hcount
    have hturn := turn.2 ⟨e, he, .inr (.inr (.inl ⟨hemit, hled, hcount, hpoll⟩))⟩
    exact ⟨a, q, b, ha, hpush, execTick_of_active hserve hnot hturn hx⟩

/-- Settles O39: the broadcasts are served first; then each queue takes nothing where the tick is idle, else one frame of its turn at
most. -/
theorem tickPushesAtMostTwoFrames : Obligations.TickPushesAtMostTwoFrames := by
  intro s hinv
  obtain ⟨q, q', hserve, hserved, hslServed, hpxServed⟩ := serveBroadcasts_took (s := tickAdvance s) { ready_of_inv hinv with }
  cases hidle : ((tickAdvance s).served q q').isIdle with
  | true =>
    refine ⟨_, [], [], execTick_of_idle hserve hidle, ?_, ?_, Nat.zero_le 1, Nat.zero_le 1, nofun, nofun, fun _ => ⟨rfl, rfl⟩⟩
    · exact tookFrames_append hslServed (tookFrames_nil _ q)
    · exact tookFrames_append hpxServed (tookFrames_nil _ q')
  | false =>
    have hnot : ¬ (s.params.idleTicks : Int) ≤ sdiff32 (s.tick + 1#32) s.lastActivity := of_decide_eq_false hidle
    have hturnReady : State.Ready { (tickAdvance s).served q q' with idleCleared := false } := { hserved with }
    obtain ⟨v, hturn, -⟩ := slaveLinkTurn_answers hturnReady
    obtain ⟨x, hx, -⟩ := emitOne_answers (jn := .pxjSlot) (qn := .pxqSlot) (tick := s.tick + 1#32) hserved.pxj hserved.pxq
      (pxLed_length hserved.conditions)
    obtain ⟨fs, hfs, hfsLen, hfsOwed⟩ := slaveLinkTurn_took hturnReady hturn
    obtain ⟨gs, hgs, hgsLen, hgsDue⟩ := emitOne_took hserved.pxq hx
    exact ⟨_, fs, gs, execTick_of_active hserve hidle hturn ((slaveLinkTurn_emitPx hturn).trans hx),
      tookFrames_append hslServed hfs, tookFrames_append hpxServed hgs, hfsLen, hgsLen, hfsOwed, hgsDue, fun h => absurd h hnot⟩

/-- Settles O40: the signed difference is not negative up to 2^31 - 1, and `IDLE_TICKS` is in 1 to 2^31 - 1. -/
theorem idleConditionWindow : Obligations.IdleConditionWindow := by
  intro s hok
  obtain ⟨⟨-, -, hmin, hmax, -⟩, -⟩ := s.params.ok_iff.1 hok
  have hlt : (s.tick - s.lastActivity).toNat < 2 ^ 32 := (s.tick - s.lastActivity).isLt
  rw [isIdle_iff, sdiff32_eq]
  split_ifs <;> omega

/-- Settles O36: with no broadcast to serve, the idle path is the whole `TICK`. -/
theorem idleTickSkipsTheRest : Obligations.IdleTickSkipsTheRest := by
  intro s hsl hpx hidle
  have hserve : serveBroadcasts (tickAdvance s) = .next (tickAdvance s) := serveBroadcasts_of_not_pending hsl hpx
  exact execTick_of_idle hserve (isIdle_iff.2 hidle)

end Sys2Proof.Machine
end

section
/-!
SUPPORT. Completed frames by their content: a host frame by its length and service code (42_parsers.md R89, 46_host_commands.md R126,
R127), a slave frame by its shape and values (42_parsers.md R90 to R93).
-/

namespace Sys2Proof

variable {p : Params} {sc g a : Byte} {pl : Bytes}

theorem Params.dispatch_of_not_inDom (h : ¬ p.InDom sc) : p.dispatch sc g a pl = none := if_pos h

theorem Params.exists_dispatch_of_inDom (h : p.InDom sc) : ∃ es, p.dispatch sc g a pl = some es := by
  unfold Params.dispatch
  rw [if_neg (not_not.2 h)]
  split_ifs <;> exact ⟨_, rfl⟩

/-- The kind of codes without meaning is outside dom(DISPATCH) (46_host_commands.md R126). -/
theorem Params.not_inDom_of_unknown (h : p.hostCode sc = .unknown) : ¬ p.InDom sc := by
  rintro ⟨-, hdom⟩
  simp only [Params.hostCode, ite_eq_iff, reduceCtorEq, and_false, false_or, and_true] at h
  simp [Params.namedCodes, h] at hdom

end Sys2Proof

namespace Sys2Proof.Machine

variable {s : State} {f : Bytes} {a st : Byte}

/-! ### Host frames -/

theorem hostFrame_of_short (h : f.length < 3) : hostFrame f s = .next (noteActivity s) := by
  match f, h with
  | [], _ | [_], _ | [_, _], _ => rfl

theorem hostCommand_of_not_inDom {sc g : Byte} {pl : Bytes} (h : ¬ s.params.InDom sc) :
    hostCommand sc g a pl s = .next (noteActivity s) := by
  rw [hostCommand, Params.dispatch_of_not_inDom h]

/-- A host frame of three bytes or more is the command of its third byte, whether or not that code has a row (R89, log 20). -/
theorem hostFrame_eq_hostCommand (g a sc : Byte) (pl : Bytes) (s : State) :
    hostFrame (g :: a :: sc :: pl) s = hostCommand sc g a pl s := by
  obtain ⟨hpoll, hled, hone, hmap, hreset, hrelay, hbtn, hpx, hreply⟩ := Params.hostCode_named (p := s.params) (sc := sc)
  rw [hostFrame]
  cases hcode : s.params.hostCode sc with
  | poll => rw [hpoll hcode]; rfl
  | ledCtrl => rw [hled hcode]; rfl
  | oneshotLedReset => rw [hone hcode]; rfl
  | mapUpload => rw [hmap hcode]; rfl
  | ledReset => rw [hreset hcode]; rfl
  | relaySet => rw [hrelay hcode]; rfl
  | btnReset => rw [hbtn hcode]; rfl
  | pxMask => rw [hpx hcode]; rfl
  | statusReply => rw [hreply hcode]; rfl
  | further => rfl
  | unknown => exact (hostCommand_of_not_inDom (Params.not_inDom_of_unknown hcode)).symm

/-! ### Slave frames -/

/-- A status reply that counts updates the round accumulators, and the committed view exactly while some slave-link job is active
(R92, R93). -/
theorem statusReply_of_counts (h : ReplyCounts a st) : statusReply a st s = { s with
    roundAlive := s.roundAlive ||| 1#32 <<< a.toNat
    roundTrig := trigUpdate s.params st (1#32 <<< a.toNat) s.roundTrig
    alive := if s.slj.anyActive then s.alive ||| 1#32 <<< a.toNat else s.alive
    trig := if s.slj.anyActive then trigUpdate s.params st (1#32 <<< a.toNat) s.trig else s.trig } := by
  obtain ⟨⟨hmin, hmax⟩, hst⟩ := h
  have hbit : addrBit a = 1#32 <<< a.toNat := if_pos ⟨hmin, hmax⟩
  have hset : (addrBit a).getLsbD a.toNat = true := (addressMaskIsOneBit a a.toNat).trans (decide_eq_true ⟨hmin, hmax, rfl⟩)
  have hne : addrBit a ≠ 0#32 := by
    intro hzero
    rw [hzero, BitVec.getLsbD_zero] at hset
    exact Bool.false_ne_true hset
  have hactive : (replyRound (1#32 <<< a.toNat) st s).slj.anyActive = s.slj.anyActive := rfl
  rw [statusReply, if_neg (not_or.2 ⟨hne, hst⟩), hbit, replyMirror, hactive]
  split_ifs <;> rfl

/-- Three bytes with `SC_SLAVE_STATUS` first are a status reply, which counts or is ignored (R90, R91). -/
theorem slaveFrame_reply (a st : Byte) (s : State) :
    slaveFrame [s.params.scSlaveStatus, a, st] s = .next (if ReplyCounts a st then statusReply a st s else s) := by
  rw [slaveFrame, if_neg (not_not.2 rfl)]
  split_ifs <;> rfl

/-- Any other content is ignored (R90). -/
theorem slaveFrame_of_other_shape (h : ¬ (f.length = 3 ∧ f[0]? = some s.params.scSlaveStatus)) : slaveFrame f s = .next s := by
  unfold slaveFrame
  split
  case h_1 sc addr state =>
    have hsc : sc ≠ s.params.scSlaveStatus := fun heq => h ⟨rfl, congrArg some heq⟩
    exact if_pos hsc
  case h_2 => rfl

end Sys2Proof.Machine
end

section
/-!
SUPPORT. What the reception of bytes owns: the two parsers and `last_activity`. What a completed frame does neither reads nor writes the
parsers and does not read `last_activity` (42_parsers.md R86, R89, R90).
-/

namespace Sys2Proof.Machine

/-! ### The fields of reception -/

/-- The state with these parsers and this `last_activity`. -/
def State.withReception (hp sp : Parser) (act : U32) (s : State) : State := { s with hp := hp, sp := sp, lastActivity := act }

/-- The operation neither reads nor writes the parsers and `last_activity`: with others in their place it answers the same, with those. -/
def IgnoresReception (op : State → Res State) : Prop :=
  ∀ (hp sp : Parser) (act : U32) (s : State),
    op (s.withReception hp sp act) = (op s).andThen fun t => .next (t.withReception hp sp act)

/-- An update that always answers. -/
theorem ignoresReception_next {update : State → State}
    (h : ∀ hp sp act s, update (s.withReception hp sp act) = (update s).withReception hp sp act) :
    IgnoresReception fun s => .next (update s) :=
  fun hp sp act s => congrArg Host.Outcome.next (h hp sp act s)

theorem ignoresReception_andThen {op k : State → Res State} (hop : IgnoresReception op) (hk : IgnoresReception k) :
    IgnoresReception fun s => (op s).andThen k := by
  intro hp sp act s
  simp only [hop hp sp act s]
  cases op s with
  | next t => exact hk hp sp act t
  | fault f => rfl
  | refused x => rfl

/-- An operation on what a reading `r` answers, which does not depend on the fields of reception. -/
theorem ignoresReception_read {α : Type} {r : State → Res α} {k : α → State → Res State}
    (hr : ∀ hp sp act s, r (s.withReception hp sp act) = r s) (hk : ∀ a, IgnoresReception (k a)) :
    IgnoresReception fun s => (r s).andThen fun a => k a s := by
  intro hp sp act s
  simp only [hr hp sp act s]
  cases r s with
  | next a => exact hk a hp sp act s
  | fault f => rfl
  | refused x => rfl

theorem ignoresReception_ite {c : State → Bool} {op k : State → Res State} (hc : ∀ hp sp act s, c (s.withReception hp sp act) = c s)
    (hop : IgnoresReception op) (hk : IgnoresReception k) : IgnoresReception fun s => if c s then op s else k s := by
  intro hp sp act s
  simp only [hc hp sp act s]
  split_ifs
  · exact hop hp sp act s
  · exact hk hp sp act s

/-! ### Effects -/

theorem execEffMapUpload_ignoresReception (pl : Bytes) : IgnoresReception (execEffMapUpload pl) := by
  cases pl with
  | nil => exact ignoresReception_next fun _ _ _ _ => rfl
  | cons n pairs => exact ignoresReception_read (fun _ _ _ _ => rfl) fun _ => ignoresReception_next fun _ _ _ _ => rfl

/-- A job operation may read `tick`. -/
theorem onTable_ignoresReception (tbl : Byte) (op : U32 → JobTable → JobTable) :
    IgnoresReception fun s => onTable tbl (op s.tick) s := by
  intro hp sp act s
  unfold onTable
  split_ifs <;> rfl

theorem execEffBcastReq_ignoresReception (tbl : Byte) : IgnoresReception (execEffBcastReq tbl) := by
  intro hp sp act s
  unfold execEffBcastReq
  split_ifs <;> rfl

theorem applyEffect_ignoresReception (e : EffectRec) : IgnoresReception (applyEffect e) := by
  intro hp sp act s
  unfold applyEffect
  split
  · exact execEffMapUpload_ignoresReception e.bytes hp sp act s
  · exact onTable_ignoresReception e.tbl (fun tick j => j.start e.target e.ind tick) hp sp act s
  · exact onTable_ignoresReception e.tbl (fun _ j => j.stopInd e.ind) hp sp act s
  · exact onTable_ignoresReception e.tbl (fun _ => JobTable.stopAll) hp sp act s
  · exact onTable_ignoresReception e.tbl (fun _ j => j.removeExcept e.target e.ind) hp sp act s
  · exact execEffBcastReq_ignoresReception e.tbl hp sp act s
  all_goals rfl

theorem applyEffects_ignoresReception (es : List EffectRec) : IgnoresReception (applyEffects es) := by
  induction es with
  | nil => exact ignoresReception_next fun _ _ _ _ => rfl
  | cons e es ih => exact ignoresReception_andThen (applyEffect_ignoresReception e) ih

/-! ### The build -/

theorem resolveFrom_withReception (hp sp : Parser) (act : U32) (s : State) (n j : Nat) (force : U32) :
    resolveFrom (s.withReception hp sp act) n j force = resolveFrom s n j force := by
  induction n generalizing j force with
  | zero => rfl
  | succ n ih =>
    simp only [resolveFrom, ih]
    rfl

theorem build_ignoresReception : IgnoresReception build :=
  ignoresReception_ite (fun _ _ _ _ => rfl) (ignoresReception_next fun _ _ _ _ => rfl) <|
    ignoresReception_read (fun hp sp act s => resolveFrom_withReception hp sp act s s.params.maxCfg 0 s.forceTrig) fun _ =>
      ignoresReception_read (fun _ _ _ _ => rfl) fun _ => ignoresReception_next fun _ _ _ _ => rfl

/-! ### Completed frames -/

theorem hostCommand_withReception (sc g a : Byte) (pl : Bytes) (hp sp : Parser) (act : U32) (s : State) :
    hostCommand sc g a pl (s.withReception hp sp act) =
      (hostCommand sc g a pl s).andThen fun t => .next (t.withReception hp sp s.tick) := by
  have hparams : (s.withReception hp sp act).params = s.params := rfl
  unfold hostCommand
  rw [hparams]
  cases s.params.dispatch sc g a pl with
  | none => rfl
  | some es =>
    exact ignoresReception_andThen (applyEffects_ignoresReception es) build_ignoresReception hp sp s.tick (noteActivity s)

/-- A host frame writes `tick` to `last_activity`, and has nothing else to do with the fields of reception (R89). -/
theorem hostFrame_withReception (f : Bytes) (hp sp : Parser) (act : U32) (s : State) :
    hostFrame f (s.withReception hp sp act) = (hostFrame f s).andThen fun t => .next (t.withReception hp sp s.tick) := by
  match f with
  | [] | [_] | [_, _] => rfl
  | g :: a :: sc :: pl =>
    rw [hostFrame_eq_hostCommand, hostFrame_eq_hostCommand]
    exact hostCommand_withReception sc g a pl hp sp act s

/-- A slave frame has nothing to do with the fields of reception (R90). -/
theorem slaveFrame_ignoresReception (f : Bytes) : IgnoresReception (slaveFrame f) := by
  intro hp sp act s
  have hparams : (s.withReception hp sp act).params = s.params := rfl
  unfold slaveFrame
  split
  case h_1 sc a st =>
    rw [hparams]
    split_ifs with hsc hcounts
    · rfl
    · rw [execSlaveStatusReply, execSlaveStatusReply, statusReply_of_counts hcounts, statusReply_of_counts hcounts]
      rfl
    · rfl
  case h_2 => rfl

/-! ### The parsers around a completed frame -/

/-- The operation neither reads nor writes the parsers, and leaves `activity` of the state before it in `last_activity`. -/
def IgnoresParsers (activity : State → U32) (op : State → Res State) : Prop :=
  ∀ (hp sp : Parser) (s : State),
    op { s with hp := hp, sp := sp } = (op s).andThen fun t => .next (t.withReception hp sp (activity s))

theorem hostFrame_ignoresParsers (f : Bytes) : IgnoresParsers State.tick (hostFrame f) :=
  fun hp sp s => hostFrame_withReception f hp sp s.lastActivity s

theorem slaveFrame_ignoresParsers (f : Bytes) : IgnoresParsers State.lastActivity (slaveFrame f) :=
  fun hp sp s => slaveFrame_ignoresReception f hp sp s.lastActivity s

variable {activity : State → U32} {op : State → Res State} {s t : State}

theorem IgnoresParsers.keeps (hop : IgnoresParsers activity op) (h : op s = .next t) :
    t.hp = s.hp ∧ t.sp = s.sp ∧ t.lastActivity = activity s := by
  have heq : op s = (op s).andThen fun t => .next (t.withReception s.hp s.sp (activity s)) := hop s.hp s.sp s
  rw [h, andThen_next, Host.Outcome.next.injEq] at heq
  rw [heq]
  exact ⟨rfl, rfl, rfl⟩

theorem IgnoresParsers.alike (hop : IgnoresParsers activity op) (h : op s = .next t) (hp sp : Parser) :
    op { s with hp := hp, sp := sp } = .next { t with hp := hp, sp := sp } := by
  obtain ⟨-, -, hact⟩ := hop.keeps h
  rw [hop hp sp s, h, ← hact]
  rfl

/-- Handing a content on leaves the parsers as they are and answers alike with others (R86). -/
theorem handOn_ignoresParsers {take : Bytes → State → Res State} {c : Option Bytes} (htake : ∀ f, IgnoresParsers activity (take f))
    (h : handOn take c s = .next t) (hp sp : Parser) :
    t.hp = s.hp ∧ t.sp = s.sp ∧ handOn take c { s with hp := hp, sp := sp } = .next { t with hp := hp, sp := sp } := by
  cases c with
  | none =>
    obtain rfl := Host.Outcome.next.inj h
    exact ⟨rfl, rfl, rfl⟩
  | some f =>
    obtain ⟨hhp, hsp, -⟩ := (htake f).keeps h
    exact ⟨hhp, hsp, (htake f).alike h hp sp⟩

end Sys2Proof.Machine
end

section
/-!
SUPPORT. A byte of either channel, by the state of its parser (42_parsers.md R81 to R84, R87, R88).
-/

namespace Sys2Proof.Machine

variable {name : ArrayName} {cap : Nat} {p : Parser} {s : State} {b : Byte}

/-! ### The parser -/

/-- Within its bounds a parser in COLLECT stores the byte, and waits for END when the index reaches the length (R83). -/
theorem parseByte_of_collect (hp : p.BoundsOk cap) (hstate : p.state = .collect) (b : Byte) :
    parseByte name cap p b = .next { parser := { p with
      buf := p.buf.set p.idx.toNat b
      idx := p.idx + 1#8
      state := if p.idx.toNat + 1 = p.len.toNat then .waitEnd else .collect } } := by
  obtain ⟨hbuf, -, hlen, hcollect, -⟩ := hp
  have hidx : p.idx.toNat < p.len.toNat := hcollect hstate
  have hdone : p.idx + 1#8 = p.len ↔ p.idx.toNat + 1 = p.len.toNat := by bv_omega
  refine parseByte_eq_next.2 (.inr (.inr (.inl ⟨hstate, by omega, ?_⟩)))
  simp only [hdone]

/-- Any byte but END discards the content (R84, R85). -/
theorem parseByte_of_not_end (hstate : p.state = .waitEnd) (hb : b ≠ 0x16#8) :
    parseByte name cap p b = .next { parser := { p with state := .waitStart } } :=
  parseByte_eq_next.2 (.inr (.inr (.inr (.inl ⟨hstate, hb, rfl⟩))))

/-- Within its bounds a parser hands on the content that END completes (R84). -/
theorem parseByte_of_end (hp : p.BoundsOk cap) (hstate : p.state = .waitEnd) :
    parseByte name cap p 0x16#8 =
      .next { parser := { p with state := .waitStart }, complete := some (p.buf.take p.len.toNat) } := by
  obtain ⟨hbuf, -, hlen, -⟩ := hp
  exact parseByte_eq_next.2 (.inr (.inr (.inr (.inr ⟨hstate, rfl, hbuf ▸ hlen, rfl⟩))))

theorem boundsOk_waitStart (hp : p.BoundsOk cap) : Parser.BoundsOk { p with state := .waitStart } cap := by
  obtain ⟨hbuf, hidx, hlen, -, -⟩ := hp
  exact ⟨hbuf, hidx, hlen, nofun, nofun⟩

/-! ### The two channels -/

/-- A byte that completes no frame changes the parser and is acknowledged (R87). -/
theorem execHrx_of_incomplete (h : parseByte .hpBuf s.params.hostRxCap s.hp b = .next { parser := p }) :
    execHrx b s = .next (respond .ack { s with hp := p }) :=
  execHrx_eq_next.2 ⟨_, _, h, handOn_none _ _, rfl⟩

/-- A byte that completes no frame changes the parser and is acknowledged (R88). -/
theorem execSrx_of_incomplete (h : parseByte .spBuf s.params.slaveRxCap s.sp b = .next { parser := p }) :
    execSrx b s = .next (respond .ack { s with sp := p }) :=
  execSrx_eq_next.2 ⟨_, _, h, handOn_none _ _, rfl⟩

/-- A byte that completes a frame hands it on and is acknowledged (R87). -/
theorem execHrx_of_complete {f : Bytes} {t : State}
    (h : parseByte .hpBuf s.params.hostRxCap s.hp b = .next { parser := p, complete := some f })
    (ht : hostFrame f { s with hp := p } = .next t) : execHrx b s = .next { t with obs := t.obs ++ [.resp s.issuer .ack] } := by
  have hissuer : t.issuer = s.issuer := (hostFrame_sameOutside ht).issuer
  exact execHrx_eq_next.2 ⟨_, t, h, ht, by rw [respond, hissuer]⟩

/-- A byte that completes a frame hands it on and is acknowledged (R88). -/
theorem execSrx_of_complete {f : Bytes} {t : State}
    (h : parseByte .spBuf s.params.slaveRxCap s.sp b = .next { parser := p, complete := some f })
    (ht : slaveFrame f { s with sp := p } = .next t) : execSrx b s = .next { t with obs := t.obs ++ [.resp s.issuer .ack] } := by
  have hissuer : t.issuer = s.issuer := (slaveFrame_sameOutside ht).issuer
  exact execSrx_eq_next.2 ⟨_, t, h, ht, by rw [respond, hissuer]⟩

end Sys2Proof.Machine
end

section
/-!
CERTIFICATES. The statements of 42_parsers.md.
-/

namespace Sys2Proof.Machine

/-- Settles O9: no byte before END completes a frame, so each channel's transaction is its parser's step and the response. -/
theorem parserBytesBeforeEnd : Obligations.ParserBytesBeforeEnd := by
  rintro s b ⟨-, -, ⟨hhp, hsp⟩, -⟩
  refine ⟨⟨fun hstate => ?_, fun hstate => ?_, fun hstate => ?_⟩, fun hstate => ?_, fun hstate => ?_, fun hstate => ?_⟩
  · exact execHrx_of_incomplete (parseByte_eq_next.2 (.inl ⟨hstate, rfl⟩))
  · exact execHrx_of_incomplete (parseByte_eq_next.2 (.inr (.inl ⟨hstate, rfl⟩)))
  · exact execHrx_of_incomplete (parseByte_of_collect hhp hstate b)
  · exact execSrx_of_incomplete (parseByte_eq_next.2 (.inl ⟨hstate, rfl⟩))
  · exact execSrx_of_incomplete (parseByte_eq_next.2 (.inr (.inl ⟨hstate, rfl⟩)))
  · exact execSrx_of_incomplete (parseByte_of_collect hsp hstate b)

/-- Settles O10: a frame handed on is answered from a state within its bounds, and leaves the parsers as they are. -/
theorem parserByteAtEnd : Obligations.ParserByteAtEnd := by
  intro s b hinv
  have hs : s.Ready := ready_of_inv hinv
  refine ⟨fun hstate => ⟨fun hb => execHrx_of_incomplete (parseByte_of_not_end hstate hb), ?_⟩,
    fun hstate => ⟨fun hb => execSrx_of_incomplete (parseByte_of_not_end hstate hb), ?_⟩⟩ <;> rintro rfl
  · have hready : State.Ready { s with hp := { s.hp with state := .waitStart } } := { hs with hp := boundsOk_waitStart hs.hp }
    obtain ⟨t, ht, -⟩ := hostFrame_answers hready (s.hp.buf.take s.hp.len.toNat)
    obtain ⟨hhp, -, hact⟩ := (hostFrame_ignoresParsers _).keeps ht
    exact ⟨t, ht, execHrx_of_complete (parseByte_of_end hs.hp hstate) ht, hhp, hact⟩
  · have hready : State.Ready { s with sp := { s.sp with state := .waitStart } } := { hs with sp := boundsOk_waitStart hs.sp }
    obtain ⟨t, ht, -⟩ := slaveFrame_answers hready (s.sp.buf.take s.sp.len.toNat)
    obtain ⟨-, hsp, hact⟩ := (slaveFrame_ignoresParsers _).keeps ht
    exact ⟨t, ht, execSrx_of_complete (parseByte_of_end hs.sp hstate) ht, hsp, hact⟩

/-- Settles O12: a channel's byte reads its own parser, and a completed frame neither reads nor writes the parsers. -/
theorem parsersShareNoState : Obligations.ParsersShareNoState := by
  intro s t b other
  constructor <;> intro h
  · obtain ⟨r, u, hbyte, hu, rfl⟩ := execHrx_eq_next.1 h
    obtain ⟨hhp, hsp, hother⟩ := handOn_ignoresParsers hostFrame_ignoresParsers hu r.parser other
    refine ⟨hsp, execHrx_eq_next.2 ⟨r, _, hbyte, hother, ?_⟩⟩
    rw [← show u.hp = r.parser from hhp]
    rfl
  · obtain ⟨r, u, hbyte, hu, rfl⟩ := execSrx_eq_next.1 h
    obtain ⟨hhp, hsp, hother⟩ := handOn_ignoresParsers slaveFrame_ignoresParsers hu other r.parser
    refine ⟨hhp, execSrx_eq_next.2 ⟨r, _, hbyte, hother, ?_⟩⟩
    rw [← show u.sp = r.parser from hsp]
    rfl

/-- Settles O14: a slave frame is told by its shape, and a status reply by its values. -/
theorem slaveFramesAreRepliesOrIgnored : Obligations.SlaveFramesAreRepliesOrIgnored := by
  intro s
  refine ⟨fun a st hmin hmax hst => ?_, fun f hshape => ⟨slaveFrame_of_other_shape hshape, rfl⟩, fun a st hvalue => ⟨?_, rfl⟩⟩
  · have hcounts : ReplyCounts a st := ⟨⟨hmin, hmax⟩, hst⟩
    rw [slaveFrame_reply, if_pos hcounts]
    rfl
  · have hignored : ¬ ReplyCounts a st := by
      rintro ⟨⟨hmin, hmax⟩, hst⟩
      obtain h | h | h := hvalue
      · exact Nat.not_le.2 h hmin
      · exact Nat.not_le.2 h hmax
      · exact hst h
    rw [slaveFrame_reply, if_neg hignored]

/-- Settles O16: a frame of three bytes or more is the command of its third byte, which `DISPATCH` has on its domain only. -/
theorem hostFramesFollowTheirServiceCode : Obligations.HostFramesFollowTheirServiceCode := by
  intro s
  refine ⟨fun f => hostFrame_of_short, fun g a sc pl => ⟨fun hdom => ?_, fun hdom => ?_, fun e es u => ⟨rfl, rfl⟩⟩⟩
  · rw [hostFrame_eq_hostCommand]
    exact hostCommand_of_not_inDom hdom
  · obtain ⟨es, hes⟩ := Params.exists_dispatch_of_inDom (g := g) (a := a) (pl := pl) hdom
    refine ⟨es, hes, ?_⟩
    rw [hostFrame_eq_hostCommand, hostCommand, hes]
    rfl

/-- Settles O13: the mask of an address in 1..31 is not zero, so the reply counts. -/
theorem slaveReplyUpdatesMasks : Obligations.SlaveReplyUpdatesMasks := by
  intro s a st hmin hmax hst
  exact congrArg Host.Outcome.next (statusReply_of_counts ⟨⟨hmin, hmax⟩, hst⟩)

end Sys2Proof.Machine
end

section
/-!
SUPPORT. What the next pop of a ring answers, and runs of pushes and of pops, told by the unread frames (43_tx_queues.md R94 to R96). The
frames pushed may have any length, so the runs keep the part of the bounds that is on the indices.
-/

namespace Sys2Proof.Machine

/-- The indices of a ring of `n` slots are in range (10_state.md R29): `Queue.BoundsOk` without what it says of the frames. -/
structure Queue.IndicesOk (q : Queue) (n : Nat) : Prop where
  size : q.slot.length = n
  head_lt : q.head < n
  tail_lt : q.tail < n

variable {name : ArrayName} {n fmax : Nat} {q : Queue} {f : Bytes} {fs : List Bytes}

theorem indicesOk_of_boundsOk (hq : q.BoundsOk n fmax) : q.IndicesOk n := by
  obtain ⟨hlen, hhead, htail, -⟩ := hq
  exact ⟨hlen, hhead, htail⟩

theorem indicesOk_stored (hq : q.IndicesOk n) : (q.stored n f).IndicesOk n :=
  ⟨List.length_set.trans hq.size, nextIndex_lt (Nat.zero_lt_of_lt hq.head_lt) q.head, hq.tail_lt⟩

theorem indicesOk_popped (hq : q.IndicesOk n) : (q.popped n).IndicesOk n :=
  ⟨hq.size, hq.head_lt, nextIndex_lt (Nat.zero_lt_of_lt hq.tail_lt) q.tail⟩

/-! ### One operation -/

theorem push_of_room (hq : q.IndicesOk n) (hroom : q.count n < n - 1) : push name n q f = .next (q.stored n f, true) := by
  have hfull : q.isFull n = false :=
    Bool.eq_false_iff.2 fun h => hroom.ne ((isFull_iff_count hq.head_lt hq.tail_lt).1 h)
  exact push_of_not_full (hq.size.symm ▸ hq.head_lt) hfull

theorem push_of_full (hq : q.IndicesOk n) (hfull : q.count n = n - 1) :
    push name n q f = .next ({ q with drops := q.drops + 1#32 }, false) :=
  push_eq_next.2 (.inl ⟨(isFull_iff_count hq.head_lt hq.tail_lt).2 hfull, rfl⟩)

theorem isEmpty_iff_unread (hq : q.IndicesOk n) : q.isEmpty = true ↔ q.unread n = [] := by
  rw [isEmpty_iff_count hq.head_lt hq.tail_lt, ← unread_length, List.length_eq_zero_iff]

theorem pop_of_isEmpty (h : q.isEmpty = true) : pop name n q = .next (q, none) := pop_eq_next.2 (.inl ⟨h, rfl⟩)

/-- A pop answers the oldest unread frame, which stands at the tail, and leaves the others. -/
theorem pop_of_unread_cons (hq : q.IndicesOk n) (h : q.unread n = f :: fs) :
    q.slot[q.tail]? = some f ∧ pop name n q = .next (q.popped n, some f) ∧ (q.popped n).unread n = fs := by
  have hsome : q.count n ≠ 0 := by rw [← unread_length, h]; exact Nat.succ_ne_zero _
  have hempty : q.isEmpty = false :=
    Bool.eq_false_iff.2 fun he => List.cons_ne_nil f fs (h.symm.trans ((isEmpty_iff_unread hq).1 he))
  obtain ⟨rfl, hrest⟩ := List.cons.inj (h.symm.trans (unread_eq_cons_popped hq.size hq.head_lt hq.tail_lt hsome))
  have hread : q.slot[q.tail]? = some _ := List.getElem?_eq_getElem (hq.size.symm ▸ hq.tail_lt)
  exact ⟨hread, pop_eq_next.2 (.inr ⟨hempty, _, hread, rfl⟩), hrest.symm⟩

/-- R96 on a ring within its bounds, whose unread frames are not empty. -/
theorem pop_takes_oldest (hq : q.BoundsOk n fmax) :
    (q.head = q.tail → pop name n q = .next (q, none)) ∧
    (q.head ≠ q.tail → ∃ f, q.slot[q.tail]? = some f ∧ 1 ≤ f.length ∧ pop name n q = .next (q.popped n, some f)) := by
  have hidx := indicesOk_of_boundsOk hq
  have ⟨_, _, _, _, hnonempty⟩ := hq
  refine ⟨fun h => pop_of_isEmpty (decide_eq_true h), fun h => ?_⟩
  cases hunread : q.unread n with
  | nil => exact absurd (of_decide_eq_true ((isEmpty_iff_unread hidx).2 hunread)) h
  | cons f fs =>
    obtain ⟨hread, hpop, -⟩ := pop_of_unread_cons (name := name) hidx hunread
    exact ⟨f, hread, hnonempty f (hunread ▸ List.mem_cons_self), hpop⟩

/-! ### Runs of operations -/

/-- Frames for which the ring has room are all stored, behind the unread frames. -/
theorem pushAll_of_room (hq : q.IndicesOk n) (hroom : q.count n + fs.length ≤ n - 1) :
    ∃ q', pushAll name n fs q = .next (q', List.replicate fs.length true) ∧ q'.IndicesOk n ∧
      q'.unread n = q.unread n ++ fs ∧ q'.drops = q.drops := by
  induction fs generalizing q with
  | nil => exact ⟨q, rfl, hq, (List.append_nil _).symm, rfl⟩
  | cons f fs ih =>
    rw [List.length_cons] at hroom
    have hroomOne : q.count n < n - 1 := by omega
    have hroomRest : (q.stored n f).count n + fs.length ≤ n - 1 := by
      rw [count_stored hq.head_lt hq.tail_lt hroomOne]; omega
    obtain ⟨q', hrun, hq', hunread, hdrops⟩ := ih (indicesOk_stored hq) hroomRest
    refine ⟨q', ?_, hq', ?_, hdrops⟩
    · rw [pushAll, push_of_room hq hroomOne, andThen_next, hrun]; rfl
    · rw [hunread, unread_stored hq.size hq.head_lt hq.tail_lt hroomOne, List.append_assoc, List.singleton_append]

/-- Pops, one more than there are unread frames, answer these in order and then nothing. -/
theorem popTimes_of_unread (hq : q.IndicesOk n) (h : q.unread n = fs) :
    ∃ q', popTimes name n (fs.length + 1) q = .next (q', fs.map some ++ [none]) := by
  induction fs generalizing q with
  | nil => exact ⟨q, by rw [popTimes, pop_of_isEmpty ((isEmpty_iff_unread hq).2 h)]; rfl⟩
  | cons f fs ih =>
    obtain ⟨-, hpop, hrest⟩ := pop_of_unread_cons (name := name) hq h
    obtain ⟨q', hrun⟩ := ih (indicesOk_popped hq) hrest
    exact ⟨q', by rw [List.length_cons, popTimes, hpop, andThen_next, hrun]; rfl⟩

/-! ### The consumer's pops -/

theorem execSlqPop_of_pop {s : State} {r : Queue × Option Bytes} (h : pop .slqSlot s.params.slSlots s.slq = .next r) :
    execSlqPop s = .next (respond (popResponse r.2) { s with slq := r.1 }) := by
  rw [execSlqPop, h, andThen_next]

theorem execPxqPop_of_pop {s : State} {r : Queue × Option Bytes} (h : pop .pxqSlot s.params.pxSlots s.pxq = .next r) :
    execPxqPop s = .next (respond (popResponse r.2) { s with pxq := r.1 }) := by
  rw [execPxqPop, h, andThen_next]

end Sys2Proof.Machine
end

section
/-!
CERTIFICATES. The statements of 43_tx_queues.md.
-/

namespace Sys2Proof.Machine

/-- Settles O28: the pushes fill the ring with the frames, by induction; a full ring drops one more; the pops empty it in order, by
induction. -/
theorem ringKeepsOrderUpToCapacity : Obligations.RingKeepsOrderUpToCapacity := by
  intro name n fmax q fs f hn hq hempty hlen
  have hidx := indicesOk_of_boundsOk hq
  have hnil : q.unread n = [] := (isEmpty_iff_unread hidx).1 (decide_eq_true hempty)
  have hcount : q.count n = 0 := by rw [← unread_length, hnil, List.length_nil]
  obtain ⟨q₁, hpushes, hidx₁, hunread, hdrops⟩ := pushAll_of_room (name := name) (fs := fs) hidx (by omega)
  rw [hnil, List.nil_append] at hunread
  have hfull : q₁.count n = n - 1 := by rw [← unread_length, hunread, hlen]
  obtain ⟨q₂, hpops⟩ := popTimes_of_unread (name := name) (q := { q₁ with drops := q₁.drops + 1#32 })
    ⟨hidx₁.size, hidx₁.head_lt, hidx₁.tail_lt⟩ hunread
  rw [hlen] at hpushes
  rw [hlen, Nat.sub_add_cancel (by omega)] at hpops
  exact ⟨q₁, q₂, hpushes, hdrops, push_of_full hidx₁ hfull, hpops⟩

/-- Settles O26: the two pops are `Pop` on their queue, with the frame or EMPTY as the response. -/
theorem popsTakeTheOldestFrame : Obligations.PopsTakeTheOldestFrame := by
  rintro s ⟨-, -, -, ⟨hslq, hpxq⟩, -⟩
  obtain ⟨hslEmpty, hslFrame⟩ := pop_takes_oldest (name := .slqSlot) hslq
  obtain ⟨hpxEmpty, hpxFrame⟩ := pop_takes_oldest (name := .pxqSlot) hpxq
  refine ⟨rfl, rfl, fun h => execSlqPop_of_pop (hslEmpty h), fun h => ?_, fun h => execPxqPop_of_pop (hpxEmpty h), fun h => ?_⟩
  · obtain ⟨f, hread, hpos, hpop⟩ := hslFrame h
    exact ⟨f, hread, hpos, execSlqPop_of_pop hpop⟩
  · obtain ⟨f, hread, hpos, hpop⟩ := hpxFrame h
    exact ⟨f, hread, hpos, execPxqPop_of_pop hpop⟩

/-- Settles O29: a read of drops is a response and no more. -/
theorem dropCountersAreRead : Obligations.DropCountersAreRead :=
  fun _ => ⟨rfl, rfl, rfl, rfl⟩

end Sys2Proof.Machine
end

section
/-!
SUPPORT. The operations on job tables (44_led_jobs.md R104 to R107): which slot a start fills, which slots a stop clears.
-/

namespace Sys2Proof.Machine

variable {tbl t i : Byte} {tick : U32} {j : JobTable}

/-- The two selectors of a job table (46_host_commands.md section 2). -/
theorem onTable_eq_withTable (htbl : tbl = 0#8 ∨ tbl = 1#8) (op : JobTable → JobTable) (s : State) :
    onTable tbl op s = .next (s.withTable tbl (op (s.table tbl))) := by
  obtain rfl | rfl := htbl <;> rfl

@[simp] theorem withTable_table (s : State) (tbl : Byte) : s.withTable tbl (s.table tbl) = s := by
  unfold State.withTable State.table
  split_ifs <;> rfl

theorem Job.isActiveJob_iff {k : Job} : k.isActiveJob t i = true ↔ k.active = true ∧ k.target = t ∧ k.ind = i := by
  rw [Job.isActiveJob, Bool.and_eq_true, Bool.and_eq_true, decide_eq_true_iff, decide_eq_true_iff, and_assoc]

theorem any_isActiveJob_iff :
    j.slots.any (Job.isActiveJob t i) = true ↔ ∃ k ∈ j.slots, k.active = true ∧ k.target = t ∧ k.ind = i := by
  simp only [List.any_eq_true, Job.isActiveJob_iff]

theorem start_of_active (h : ∃ k ∈ j.slots, k.active = true ∧ k.target = t ∧ k.ind = i) : j.start t i tick = j :=
  if_pos (any_isActiveJob_iff.2 h)

theorem start_of_full (h : ∀ k ∈ j.slots, k.active = true) : j.start t i tick = j := by
  obtain heq | ⟨-, n, hfind, -⟩ := start_cases j t i tick
  · exact heq
  · obtain ⟨hn, hfree, -⟩ := List.findIdx?_eq_some_iff_getElem.1 hfind
    simp [h _ (List.getElem_mem hn)] at hfree

/-- Where the job is not active yet, it gets the inactive slot of least index (R104). -/
theorem start_of_free {n : Nat} {k : Job} (hnew : ¬ ∃ k ∈ j.slots, k.active = true ∧ k.target = t ∧ k.ind = i)
    (hk : j.slots[n]? = some k) (hfree : k.active = false) (hleast : ∀ m < n, ∀ k, j.slots[m]? = some k → k.active = true) :
    j.start t i tick = { j with slots := j.slots.set n { target := t, ind := i, next := tick, active := true } } := by
  obtain ⟨hn, rfl⟩ := List.getElem?_eq_some_iff.1 hk
  have hfind : j.slots.findIdx? (fun k => !k.active) = some n :=
    List.findIdx?_eq_some_iff_getElem.2 ⟨hn, by simp [hfree], fun m hm => by simp [hleast m hm _ (List.getElem?_eq_getElem _)]⟩
  rw [JobTable.start, if_neg (any_isActiveJob_iff.not.2 hnew), hfind]

/-- A slot that is cleared keeps its other fields (R105 to R107). -/
theorem deactivate_eq (j : JobTable) (hit : Job → Bool) :
    j.deactivate hit = { j with slots := j.slots.map fun k => { k with active := k.active && !hit k } } := by
  refine congrArg (JobTable.mk · j.cur) (List.map_congr_left fun k _ => ?_)
  cases hhit : hit k <;> simp

end Sys2Proof.Machine
end

section
/-!
SUPPORT. Due jobs over ticks (44_led_jobs.md R103, R109), by the signed difference.
-/

namespace Sys2Proof.Machine

/-- After `d` ticks the signed difference is `d` as a signed number (00_scope.md R11). -/
theorem sdiff32_add_self (T d : U32) : sdiff32 (T + d) T = d.toInt := by
  rw [sdiff32, add_sub_cancel_left]

/-- The next allowed tick of a job emitted at `T` is still to come (R109). -/
theorem sdiff32_succ_right (T : U32) : sdiff32 T (T + 1#32) = -1 := by
  rw [sdiff32, sub_add_cancel_left]
  rfl

/-- A tick on, the signed difference is one more, up to where it turns (R109). -/
theorem sdiff32_succ {T a : U32} (hnonneg : 0 ≤ sdiff32 T a) (hlt : sdiff32 T a + 1 < 2 ^ 31) :
    sdiff32 (T + 1#32) a = sdiff32 T a + 1 := by
  have hsub : T + 1#32 - a = T - a + 1#32 := add_sub_right_comm T 1#32 a
  have hone : (1#32).toInt = 1 := rfl
  rw [sdiff32, hsub, BitVec.toInt_add, hone]
  exact Int.bmod_eq_of_le (by simp only [sdiff32] at *; omega) (by simp only [sdiff32] at *; omega)

theorem sdiff32_self (T : U32) : sdiff32 T T = 0 := by
  rw [sdiff32, BitVec.sub_self]
  rfl

theorem not_isDue_of_sdiff32_neg {k : Job} {tick : U32} (h : sdiff32 tick k.next < 0) : k.isDue tick = false :=
  Bool.eq_false_iff.2 fun hdue => (Job.isDue_iff.1 hdue).2.not_gt h

end Sys2Proof.Machine
end

section
/-!
SUPPORT. The scan of a job table from its cursor, wrapping, and what emissions make of the table (44_led_jobs.md R108, R110).
-/

namespace Sys2Proof.Machine

variable {name jn qn : ArrayName} {n m x : Nat} {xs : List Nat} {j : JobTable} {k : Job} {q : Queue} {tick : U32} {P : Job → Bool}
  {F : Byte → Byte → Bytes}

/-! ### The scan order -/

/-- The slots of a table of `n` slots in the order in which `EmitOne` scans them (R108). -/
def JobTable.scanOrder (j : JobTable) (n : Nat) : List Nat := (List.range n).map (fun o => (j.cur + o) % n)

/-- Slot `x` exists and its job has the property `P`. -/
def JobTable.holds (j : JobTable) (P : Job → Bool) (x : Nat) : Bool := (j.slots[x]?).any P

/-- The due slots of a table of `n` slots in scan order. -/
def JobTable.dueSlots (j : JobTable) (n : Nat) (tick : U32) : List Nat := (j.scanOrder n).filter (j.holds (Job.isDue · tick))

theorem activeSlots_eq_filter (j : JobTable) (n : Nat) : j.activeSlots n = (j.scanOrder n).filter (j.holds Job.active) := rfl

theorem holds_iff : j.holds P x = true ↔ ∃ k, j.slots[x]? = some k ∧ P k = true := Option.any_eq_true _ _

theorem holds_of_getElem? (h : j.slots[x]? = some k) : j.holds P x = P k := by rw [JobTable.holds, h, Option.any_some]

theorem scanOrder_eq_rotate (j : JobTable) (n : Nat) : j.scanOrder n = (List.range n).rotate j.cur := by
  refine List.ext_getElem (by simp [JobTable.scanOrder]) fun o _ _ => ?_
  simp [JobTable.scanOrder, List.getElem_rotate, Nat.add_comm]

theorem scanOrder_nodup (j : JobTable) (n : Nat) : (j.scanOrder n).Nodup := by
  rw [scanOrder_eq_rotate, List.nodup_rotate]
  exact List.nodup_range

theorem activeSlots_nodup (j : JobTable) (n : Nat) : (j.activeSlots n).Nodup := (scanOrder_nodup j n).filter _

/-- The scan meets every slot once, so it lists as many active slots as there are. -/
theorem activeSlots_length (hj : j.slots.length = n) : (j.activeSlots n).length = (j.slots.filter Job.active).length := by
  have hperm : (j.scanOrder n).Perm (List.range n) := scanOrder_eq_rotate j n ▸ List.rotate_perm _ _
  have hslots : (List.range n).map (j.slots[·]?) = j.slots.map some := List.ext_getElem (by simp [hj]) fun _ _ _ => by simp
  calc (j.activeSlots n).length
      = (List.range n).countP (j.holds Job.active) := by
        rw [activeSlots_eq_filter, ← List.countP_eq_length_filter, hperm.countP_eq]
    _ = ((List.range n).map (j.slots[·]?)).countP (Option.any Job.active) := List.countP_map.symm
    _ = (j.slots.filter Job.active).length := by
        rw [hslots, List.countP_map, List.countP_eq_length_filter]
        rfl

theorem mem_activeSlots (h : x ∈ j.activeSlots n) : ∃ k, j.slots[x]? = some k ∧ k.active = true :=
  holds_iff.1 (List.mem_filter.1 h).2

theorem active_of_mem_activeSlots (h : x ∈ j.activeSlots n) (hk : j.slots[x]? = some k) : k.active = true := by
  rw [← holds_of_getElem? (P := Job.active) hk]
  exact (List.mem_filter.1 h).2

theorem mem_dueSlots (h : x ∈ j.dueSlots n tick) : ∃ k, j.slots[x]? = some k ∧ k.isDue tick = true :=
  holds_iff.1 (List.mem_filter.1 h).2

theorem dueSlots_eq_nil (h : ∀ k ∈ j.slots, k.isDue tick = false) : j.dueSlots n tick = [] := by
  refine List.eq_nil_iff_forall_not_mem.2 fun x hx => ?_
  obtain ⟨k, hk, hdue⟩ := mem_dueSlots hx
  simp [h k (List.mem_of_getElem? hk)] at hdue

/-- Where every active slot is due, the due slots are the active ones. -/
theorem dueSlots_eq_activeSlots (h : ∀ x ∈ j.activeSlots n, ∀ k, j.slots[x]? = some k → 0 ≤ sdiff32 tick k.next) :
    j.dueSlots n tick = j.activeSlots n := by
  refine List.filter_congr fun x hx => Bool.eq_iff_iff.2 ⟨fun hdue => ?_, fun hactive => ?_⟩
  · obtain ⟨k, hk, hdue⟩ := holds_iff.1 hdue
    exact holds_iff.2 ⟨k, hk, (Job.isDue_iff.1 hdue).1⟩
  · obtain ⟨k, hk, hkactive⟩ := holds_iff.1 hactive
    exact holds_iff.2 ⟨k, hk, Job.isDue_iff.2 ⟨hkactive, h x (List.mem_filter.2 ⟨hx, hactive⟩) k hk⟩⟩

/-! ### One call of `EmitOne` -/

/-- The scan answers the first due slot of those it has left (R108). -/
theorem scanDue_eq_find? (hj : j.BoundsOk n) (fuel off : Nat) :
    scanDue name n j tick fuel off =
      .next (((List.range' off fuel).map fun o => (j.cur + o) % n).find? (j.holds (Job.isDue · tick))) := by
  obtain ⟨hlen, hcur⟩ := hj
  induction fuel generalizing off with
  | zero => rfl
  | succ fuel ih =>
    have hslot : (j.cur + off) % n < j.slots.length := hlen ▸ Nat.mod_lt _ (by omega)
    have hholds := holds_of_getElem? (P := (Job.isDue · tick)) (List.getElem?_eq_getElem hslot)
    rw [scanDue, memRead_of_lt hslot, andThen_next, List.range'_succ, List.map_cons, List.find?_cons, hholds]
    cases hdue : j.slots[(j.cur + off) % n].isDue tick with
    | true => rfl
    | false => exact ih (off + 1)

theorem scanDue_eq_head? (hj : j.BoundsOk n) : scanDue name n j tick n 0 = .next (j.dueSlots n tick).head? := by
  rw [scanDue_eq_find? hj, ← List.range_eq_range', ← List.head?_filter]
  rfl

theorem emitOne_of_none_due (hj : j.BoundsOk n) (h : j.dueSlots n tick = []) :
    emitOne jn qn n m F tick j q = .next { table := j, queue := q, emitted := false } :=
  emitOne_eq_next.2 (.inl ⟨.inr (by rw [scanDue_eq_head? hj, h]; rfl), rfl⟩)

/-- `EmitOne` emits the first due slot in scan order, whether or not the queue has room (R108). -/
theorem emitOne_of_first_due {r : Queue × Bool} (hj : j.BoundsOk n) (h : (j.dueSlots n tick).head? = some x)
    (hk : j.slots[x]? = some k) (hpush : push qn m q (F k.target k.ind) = .next r) :
    emitOne jn qn n m F tick j q = .next {
      table := { slots := j.slots.set x { k with next := tick + 1#32 }, cur := (x + 1) % n }
      queue := r.1
      emitted := true } := by
  obtain ⟨k', hk', hdue⟩ := mem_dueSlots (List.mem_of_head? h)
  obtain ⟨hactive, -⟩ := Job.isDue_iff.1 hdue
  have hany : j.anyActive = true := List.any_eq_true.2 ⟨k', List.mem_of_getElem? hk', hactive⟩
  exact emitOne_eq_next.2 (.inr ⟨hany, x, by rw [scanDue_eq_head? hj, h], emitSlot_eq_next.2 ⟨k, r, hk, hpush, rfl⟩⟩)

/-! ### A table after emissions -/

/-- The table of `n` slots `j` after emissions of the slots `xs` at one tick (R108). -/
def JobTable.afterEmitting (j : JobTable) (n : Nat) (tick : U32) (xs : List Nat) : JobTable where
  slots := j.slots.mapIdx fun x k => if x ∈ xs then { k with next := tick + 1#32 } else k
  cur := xs.getLast?.elim j.cur (nextIndex · n)

theorem getElem?_afterEmitting (j : JobTable) (n : Nat) (tick : U32) (xs : List Nat) (x : Nat) :
    (j.afterEmitting n tick xs).slots[x]? =
      (j.slots[x]?).map fun k => if x ∈ xs then { k with next := tick + 1#32 } else k := List.getElem?_mapIdx

theorem afterEmitting_cur_of_getLast? (h : xs.getLast? = some x) : (j.afterEmitting n tick xs).cur = (x + 1) % n := by
  rw [JobTable.afterEmitting, h]
  rfl

theorem afterEmitting_nil (j : JobTable) (n : Nat) (tick : U32) : j.afterEmitting n tick [] = j := by
  refine congrArg (JobTable.mk · j.cur) (List.ext_getElem? fun x => ?_)
  rw [List.getElem?_mapIdx]
  simp

theorem afterEmitting_singleton (hk : j.slots[x]? = some k) (n : Nat) (tick : U32) :
    j.afterEmitting n tick [x] = { slots := j.slots.set x { k with next := tick + 1#32 }, cur := (x + 1) % n } := by
  obtain ⟨hx, rfl⟩ := List.getElem?_eq_some_iff.1 hk
  refine congrArg (JobTable.mk · ((x + 1) % n)) (List.ext_getElem? fun y => ?_)
  rw [List.getElem?_mapIdx]
  by_cases hyx : y = x
  · subst hyx
    simp [hx]
  · simp [hyx, Ne.symm hyx]

/-- Emissions one after the other are the emissions of the slots in sequence. -/
theorem afterEmitting_cons (j : JobTable) (n : Nat) (tick : U32) (x : Nat) (xs : List Nat) :
    (j.afterEmitting n tick [x]).afterEmitting n tick xs = j.afterEmitting n tick (x :: xs) := by
  refine congrArg₂ JobTable.mk (List.ext_getElem? fun y => ?_) ?_
  · rw [List.getElem?_mapIdx, List.getElem?_mapIdx, getElem?_afterEmitting, Option.map_map]
    refine congrArg (Option.map · _) (funext fun k => ?_)
    by_cases hx : y = x <;> by_cases hxs : y ∈ xs <;> simp [hx, hxs]
  · rw [List.getLast?_cons]
    cases xs.getLast? <;> rfl

theorem boundsOk_afterEmitting (hj : j.BoundsOk n) (tick : U32) (xs : List Nat) : (j.afterEmitting n tick xs).BoundsOk n := by
  obtain ⟨hlen, hcur⟩ := hj
  refine ⟨List.length_mapIdx.trans hlen, ?_⟩
  rw [JobTable.afterEmitting]
  cases xs.getLast? with
  | none => exact hcur
  | some x => exact nextIndex_lt (Nat.zero_lt_of_lt hcur) x

/-- Emissions change the ticks of the jobs only. -/
theorem framesOf_afterEmitting (j : JobTable) (n : Nat) (tick : U32) (xs ys : List Nat) (F : Byte → Byte → Bytes) :
    (j.afterEmitting n tick xs).framesOf F ys = j.framesOf F ys := by
  refine List.filterMap_congr fun y _ => ?_
  rw [getElem?_afterEmitting, Option.map_map]
  refine congrArg (Option.map · _) (funext fun k => ?_)
  by_cases hy : y ∈ xs <;> simp [hy]

theorem framesOf_cons (hk : j.slots[x]? = some k) (F : Byte → Byte → Bytes) (xs : List Nat) :
    j.framesOf F (x :: xs) = F k.target k.ind :: j.framesOf F xs := by
  simp [JobTable.framesOf, hk]

/-- After an emission the scan begins past the slot emitted, and meets this slot last. -/
theorem scanOrder_afterEmitting {pre post : List Nat} (h : j.scanOrder n = pre ++ x :: post) (tick : U32) :
    (j.afterEmitting n tick [x]).scanOrder n = post ++ pre ++ [x] := by
  have hx : x = (j.cur + pre.length) % n := by
    have hget : (j.scanOrder n)[pre.length]? = some x := by simp [h]
    obtain ⟨hlt, hget⟩ := List.getElem?_eq_some_iff.1 hget
    simpa [JobTable.scanOrder] using hget.symm
  have hmod : (x + 1) % n % n = (j.cur + (pre.length + 1)) % n := by
    rw [hx, Nat.mod_mod, Nat.mod_add_mod, Nat.add_assoc]
  calc (j.afterEmitting n tick [x]).scanOrder n
      = (List.range n).rotate ((x + 1) % n) := scanOrder_eq_rotate _ n
    _ = (List.range n).rotate (j.cur + (pre.length + 1)) := by
        rw [← List.rotate_mod, List.length_range, hmod, ← List.rotate_mod _ (j.cur + _), List.length_range]
    _ = (j.scanOrder n).rotate (pre.length + 1) := by rw [scanOrder_eq_rotate, List.rotate_rotate]
    _ = ((pre ++ [x]) ++ post).rotate (pre ++ [x]).length := by
        rw [h, List.append_assoc, List.singleton_append, List.length_append, List.length_singleton]
    _ = post ++ pre ++ [x] := by rw [List.rotate_append_length_eq, List.append_assoc]

/-- An emission of the first slot with a property leaves the others with it in their order; the slot emitted comes last, if it still has
the property. -/
theorem filter_scanOrder_afterEmitting (h : (j.scanOrder n).filter (j.holds P) = x :: xs) (tick : U32) :
    ((j.afterEmitting n tick [x]).scanOrder n).filter ((j.afterEmitting n tick [x]).holds P) =
      xs ++ [x].filter ((j.afterEmitting n tick [x]).holds P) := by
  obtain ⟨pre, post, hscan, hpre, -, rfl⟩ := List.filter_eq_cons_iff.1 h
  obtain ⟨hnodup, -⟩ : x ∉ pre ++ post ∧ (pre ++ post).Nodup := by
    rw [← List.nodup_cons, ← List.nodup_middle, ← hscan]
    exact scanOrder_nodup j n
  have hother : ∀ y ∈ pre ++ post, (j.afterEmitting n tick [x]).holds P y = j.holds P y := by
    intro y hy
    have hne : y ≠ x := fun hyx => hnodup (hyx ▸ hy)
    simp [JobTable.holds, getElem?_afterEmitting, hne]
  have hnone : pre.filter ((j.afterEmitting n tick [x]).holds P) = [] :=
    List.filter_eq_nil_iff.2 fun y hy => hother y (List.mem_append_left _ hy) ▸ hpre y hy
  rw [scanOrder_afterEmitting hscan, List.filter_append, List.filter_append, hnone, List.append_nil,
    List.filter_congr fun y hy => hother y (List.mem_append_right _ hy)]

theorem dueSlots_afterEmitting (h : j.dueSlots n tick = x :: xs) : (j.afterEmitting n tick [x]).dueSlots n tick = xs := by
  obtain ⟨k, hk, -⟩ := mem_dueSlots (h ▸ List.mem_cons_self : x ∈ j.dueSlots n tick)
  have hnot : (j.afterEmitting n tick [x]).holds (Job.isDue · tick) x = false := by
    rw [JobTable.holds, getElem?_afterEmitting, hk, Option.map_some, if_pos (List.mem_singleton_self x), Option.any_some]
    exact not_isDue_of_sdiff32_neg (by rw [sdiff32_succ_right]; decide)
  rw [JobTable.dueSlots, filter_scanOrder_afterEmitting h, List.filter_singleton, hnot]
  simp

theorem activeSlots_afterEmitting (h : j.activeSlots n = x :: xs) (tick : U32) :
    (j.afterEmitting n tick [x]).activeSlots n = xs ++ [x] := by
  obtain ⟨k, hk, hactive⟩ := mem_activeSlots (h ▸ List.mem_cons_self : x ∈ j.activeSlots n)
  have hstill : (j.afterEmitting n tick [x]).holds Job.active x = true := by
    rw [JobTable.holds, getElem?_afterEmitting, hk, Option.map_some, if_pos (List.mem_singleton_self x), Option.any_some]
    exact hactive
  rw [activeSlots_eq_filter, filter_scanOrder_afterEmitting h, List.filter_singleton, hstill]
  rfl

end Sys2Proof.Machine
end

section
/-!
SUPPORT. Runs of `EmitOne`: at one tick, and once on each of successive ticks (44_led_jobs.md R110).
-/

namespace Sys2Proof.Machine

variable {jn qn : ArrayName} {n m x : Nat} {xs : List Nat} {j : JobTable} {q : Queue} {tick : U32} {F : Byte → Byte → Bytes}

/-! ### At one tick -/

/-- A push takes its frame, stored or dropped, whatever the frame's length (43_tx_queues.md R95). -/
theorem push_takes {name : ArrayName} (hq : q.IndicesOk n) (f : Bytes) :
    ∃ r, push name n q f = .next r ∧ r.1.IndicesOk n ∧ q.TookFrames n [f] r.1 := by
  have hlt : q.count n < n := count_lt (Nat.zero_lt_of_lt hq.head_lt)
  obtain hfull | hroom : q.count n = n - 1 ∨ q.count n < n - 1 := by omega
  · refine ⟨_, push_of_full hq hfull, ⟨hq.size, hq.head_lt, hq.tail_lt⟩, ?_⟩
    rw [Queue.TookFrames, hfull, Nat.sub_self]
    exact ⟨(List.append_nil _).symm, rfl, rfl⟩
  · obtain ⟨room, hcapacity⟩ : ∃ room, n - 1 - q.count n = room + 1 := ⟨n - 2 - q.count n, by omega⟩
    refine ⟨_, push_of_room hq hroom, indicesOk_stored hq, ?_⟩
    rw [Queue.TookFrames, hcapacity, unread_stored hq.size hq.head_lt hq.tail_lt hroom]
    simp [Queue.stored]

/-- Calls of `EmitOne` at one tick, as many as there are due slots at most, emit the first due slots in scan order. -/
theorem emitTimes_emits (hj : j.BoundsOk n) (hq : q.IndicesOk m) {i : Nat} (hi : i ≤ (j.dueSlots n tick).length) :
    ∃ q', emitTimes jn qn n m F tick i j q =
        .next (j.afterEmitting n tick ((j.dueSlots n tick).take i), q', List.replicate i true) ∧
      q.TookFrames m (j.framesOf F ((j.dueSlots n tick).take i)) q' ∧
      (j.afterEmitting n tick ((j.dueSlots n tick).take i)).dueSlots n tick = (j.dueSlots n tick).drop i := by
  induction i generalizing j q with
  | zero =>
    rw [List.take_zero, afterEmitting_nil]
    exact ⟨q, rfl, tookFrames_nil m q, rfl⟩
  | succ i ih =>
    cases hdue : j.dueSlots n tick with
    | nil => simp [hdue] at hi
    | cons x xs =>
      obtain ⟨k, hk, -⟩ := mem_dueSlots (hdue ▸ List.mem_cons_self : x ∈ j.dueSlots n tick)
      obtain ⟨r, hpush, hr, htook⟩ := push_takes (name := qn) hq (F k.target k.ind)
      have hemit := emitOne_of_first_due (jn := jn) hj (by rw [hdue]; rfl) hk hpush
      rw [← afterEmitting_singleton hk] at hemit
      have hrest := dueSlots_afterEmitting hdue
      have hlen : i ≤ ((j.afterEmitting n tick [x]).dueSlots n tick).length := by
        rw [hdue, List.length_cons] at hi; rw [hrest]; omega
      obtain ⟨q', hrun, htooks, hdues⟩ := ih (boundsOk_afterEmitting hj tick [x]) hr hlen
      rw [hrest, afterEmitting_cons] at hrun hdues
      rw [hrest, framesOf_afterEmitting] at htooks
      rw [List.take_succ_cons]
      refine ⟨q', ?_, ?_, hdues⟩
      · rw [emitTimes, hemit, andThen_next, hrun]; rfl
      · rw [framesOf_cons hk]
        exact tookFrames_append htook htooks

/-! ### Over ticks -/

/-- Every active slot of the table is due at `tick`, and stays due until its turn where one slot is emitted on each tick: the slot at
place `p` of the order waits `p` ticks (R109). -/
structure JobTable.DueUntilTurn (j : JobTable) (n : Nat) (tick : U32) : Prop where
  length_le : (j.activeSlots n).length ≤ 2 ^ 31
  due : ∀ (p x : Nat) (k : Job), (j.activeSlots n)[p]? = some x → j.slots[x]? = some k →
    0 ≤ sdiff32 tick k.next ∧ sdiff32 tick k.next + p < 2 ^ 31

theorem JobTable.DueUntilTurn.dueSlots_eq (h : j.DueUntilTurn n tick) : j.dueSlots n tick = j.activeSlots n :=
  dueSlots_eq_activeSlots fun x hx k hk => by
    obtain ⟨p, hp⟩ := List.mem_iff_getElem?.1 hx
    exact (h.due p x k hp hk).1

/-- The bound on the wait that holds of every active slot holds of each at its own place. -/
theorem dueUntilTurn_of_due (hlen : 1 ≤ (j.activeSlots n).length)
    (h : ∀ k ∈ j.slots, k.active = true → 0 ≤ sdiff32 tick k.next ∧ sdiff32 tick k.next + (j.activeSlots n).length ≤ 2 ^ 31) :
    j.DueUntilTurn n tick := by
  constructor
  · obtain ⟨x, hx⟩ := List.exists_mem_of_length_pos hlen
    obtain ⟨k, hk, hactive⟩ := mem_activeSlots hx
    obtain ⟨hnonneg, hle⟩ := h k (List.mem_of_getElem? hk) hactive
    omega
  · intro p x k hp hk
    have hplt : p < (j.activeSlots n).length := (List.getElem?_eq_some_iff.1 hp).1
    obtain ⟨hnonneg, hle⟩ := h k (List.mem_of_getElem? hk) (active_of_mem_activeSlots (List.mem_of_getElem? hp) hk)
    exact ⟨hnonneg, by omega⟩

theorem dueUntilTurn_afterEmitting (hactive : j.activeSlots n = x :: xs) (h : j.DueUntilTurn n tick) :
    (j.afterEmitting n tick [x]).DueUntilTurn n (tick + 1#32) := by
  have hlen : (xs ++ [x]).length ≤ 2 ^ 31 := by
    rw [List.length_append, List.length_singleton, ← List.length_cons (a := x), ← hactive]
    exact h.length_le
  have horder := activeSlots_afterEmitting hactive tick
  refine ⟨horder ▸ hlen, fun p y k' hp hk' => ?_⟩
  rw [horder] at hp
  rw [getElem?_afterEmitting, Option.map_eq_some_iff] at hk'
  obtain ⟨k, hk, rfl⟩ := hk'
  have hplt : p < (xs ++ [x]).length := (List.getElem?_eq_some_iff.1 hp).1
  by_cases hyx : y = x
  · rw [if_pos (List.mem_singleton.2 hyx), sdiff32_self]
    omega
  · have hxs : xs[p]? = some y := by
      rw [List.getElem?_append] at hp
      split_ifs at hp
      · exact hp
      · exact absurd (List.mem_singleton.1 (List.mem_of_getElem? hp)) hyx
    obtain ⟨hnonneg, hlt⟩ := h.due (p + 1) y k (by rw [hactive, List.getElem?_cons_succ, hxs]) hk
    rw [if_neg (List.mem_singleton.not.2 hyx), sdiff32_succ hnonneg (by omega)]
    constructor <;> omega

/-- `EmitOne` once on each of successive ticks emits a job every time, and the order of the active slots turns by one slot each time. -/
theorem emitOverTicks_emits {qs : List Queue} (hj : j.BoundsOk n) (hdue : j.DueUntilTurn n tick) (hne : j.activeSlots n ≠ [])
    (hqs : ∀ q ∈ qs, q.head < q.slot.length) :
    ∃ j', emitOverTicks jn qn n m F tick qs j = .next (j', List.replicate qs.length true) ∧ j'.jobs = j.jobs ∧ j'.BoundsOk n ∧
      j'.activeSlots n = (j.activeSlots n).rotate qs.length ∧ j'.DueUntilTurn n (tick + BitVec.ofNat 32 qs.length) := by
  induction qs generalizing j tick with
  | nil => exact ⟨j, rfl, rfl, hj, (List.rotate_zero _).symm, (BitVec.add_zero tick).symm ▸ hdue⟩
  | cons q qs ih =>
    obtain ⟨hq, hqs⟩ := List.forall_mem_cons.1 hqs
    obtain ⟨x, xs, hactive⟩ := List.exists_cons_of_ne_nil hne
    obtain ⟨k, hk, -⟩ := mem_activeSlots (hactive ▸ List.mem_cons_self : x ∈ j.activeSlots n)
    have hemit := emitOne_of_first_due (jn := jn) (F := F) hj (by rw [hdue.dueSlots_eq, hactive]; rfl) hk
      (push_of_lt (name := qn) (n := m) hq)
    rw [← afterEmitting_singleton hk] at hemit
    have horder := activeSlots_afterEmitting hactive tick
    obtain ⟨j', hrun, hjobs, hj', hrotated, hdue'⟩ := ih (boundsOk_afterEmitting hj tick [x])
      (dueUntilTurn_afterEmitting hactive hdue) (by simp [horder]) hqs
    refine ⟨j', ?_, hjobs.trans ?_, hj', ?_, ?_⟩
    · rw [emitOverTicks, hemit, andThen_next, hrun]; rfl
    · rw [afterEmitting_singleton hk, JobTable.jobs_emission hk]
    · rw [hrotated, horder, hactive, List.length_cons, List.rotate_cons_succ]
    · rw [List.length_cons, Nat.add_comm, BitVec.ofNat_add, ← BitVec.add_assoc]
      exact hdue'

end Sys2Proof.Machine
end

section
/-!
CERTIFICATES. The statements of 44_led_jobs.md.
-/

namespace Sys2Proof.Machine

/-- Settles O32: the calls emit the due slots in scan order, by induction on their number, and all active slots are due. -/
theorem emissionIsFair : Obligations.EmissionIsFair := by
  intro jn qn n m fmax F tick j q hj _ hq hdue order
  have horder : j.dueSlots n tick = order :=
    dueSlots_eq_activeSlots fun x hx k hk => hdue k (List.mem_of_getElem? hk) (active_of_mem_activeSlots hx hk)
  have ⟨hlen, _⟩ := hj
  refine ⟨activeSlots_nodup j n, activeSlots_length hlen, fun i hi => ?_⟩
  obtain ⟨q', hrun, htook, hrest⟩ :=
    emitTimes_emits (jn := jn) (qn := qn) (F := F) hj (indicesOk_of_boundsOk hq) (horder.symm ▸ hi)
  rw [horder] at hrun htook hrest
  refine ⟨_, q', hrun, getElem?_afterEmitting j n tick _, fun x hx => afterEmitting_cur_of_getLast? hx, htook, fun hall => ?_⟩
  exact emitOne_of_none_due (boundsOk_afterEmitting hj tick _) (by rw [hrest, hall, List.drop_length])

/-- Settles O33: each tick emits the first slot of the order and turns the order by one, by induction on the ticks, so after `N` ticks
the slot at place `N` modulo the length comes first. -/
theorem emissionIsCyclicOverTicks : Obligations.EmissionIsCyclicOverTicks := by
  intro jn qn n m F tick j qs q order hj hlen hqs hdue
  obtain ⟨hq, hqs⟩ := List.forall_mem_cons.1 hqs
  have hne : j.activeSlots n ≠ [] := List.ne_nil_of_length_pos hlen
  obtain ⟨j', hrun, hjobs, hj', hrotated, hdue'⟩ :=
    emitOverTicks_emits (jn := jn) (qn := qn) (m := m) (F := F) hj (dueUntilTurn_of_due hlen hdue) hne hqs
  have hturn : qs.length % order.length < order.length := Nat.mod_lt _ hlen
  have hfirst : (j'.activeSlots n).head? = some order[qs.length % order.length] := by
    rw [hrotated, ← List.rotate_mod, List.head?_rotate hturn, List.getElem?_eq_getElem hturn]
  obtain ⟨k, hk, hactive⟩ := mem_activeSlots (List.mem_of_head? hfirst)
  exact ⟨j', hrun, hjobs, _, k, _, _, List.getElem?_eq_getElem hturn, hk, hactive, push_of_lt hq,
    emitOne_of_first_due hj' (hdue'.dueSlots_eq ▸ hfirst) hk (push_of_lt hq)⟩

/-- Settles O31: `EmitOne` emits the first slot of the due slots in scan order, if there is one. -/
theorem emitOneTakesTheFirstDueSlot : Obligations.EmitOneTakesTheFirstDueSlot := by
  intro jn qn n m F tick j q hj hq due
  refine ⟨fun hnone => ?_, fun o k ho hk hdue hbefore => ?_⟩
  · exact emitOne_of_none_due hj (dueSlots_eq_nil fun k hk => Bool.eq_false_iff.2 (Job.isDue_iff.not.2 (hnone k hk)))
  · have hfirst : (j.dueSlots n tick).head? = some ((j.cur + o) % n) := by
      refine List.head?_filter.trans (List.find?_eq_some_iff_getElem.2 ⟨holds_iff.2 ⟨k, hk, Job.isDue_iff.2 hdue⟩, o, ?_, ?_, ?_⟩)
      · simpa [JobTable.scanOrder] using ho
      · simp [JobTable.scanOrder]
      · intro o' ho'
        simp only [JobTable.scanOrder, List.getElem_map, List.getElem_range, Bool.not_eq_true']
        refine Bool.eq_false_iff.2 fun hholds => ?_
        obtain ⟨k', hk', hdue'⟩ := holds_iff.1 hholds
        exact hbefore o' ho' k' hk' (Job.isDue_iff.1 hdue')
    exact ⟨_, _, push_of_lt hq, emitOne_of_first_due hj hfirst hk (push_of_lt hq)⟩

/-- Settles O34: at `T` the signed difference is -1; `d` ticks after `T + 1` it is `d`, signed. -/
theorem emittedJobWaitsOneTick : Obligations.EmittedJobWaitsOneTick := by
  intro k T hactive hnext
  refine ⟨not_isDue_of_sdiff32_neg (by rw [hnext, sdiff32_succ_right]; decide), fun d => ?_⟩
  have hlt : d.toNat < 2 ^ 32 := d.isLt
  rw [Job.isDue_iff, hnext, sdiff32_add_self, BitVec.toInt_eq_toNat_cond]
  simp only [hactive, true_and]
  split_ifs <;> omega

/-- Settles O22: the start on the selected table, by whether the job is active and which slot is free; the new job is due on the next
tick since the signed difference is 1 then. -/
theorem jobStartFillsTheFirstFreeSlot : Obligations.JobStartFillsTheFirstFreeSlot := by
  intro s tbl t i htbl slots
  have hexec : exec (.effJobStart tbl t i) s = .next (s.withTable tbl ((s.table tbl).start t i s.tick)) :=
    onTable_eq_withTable htbl (·.start t i s.tick) s
  refine ⟨rfl, fun hactive => ?_, fun hnew => ⟨?_, fun hfull => ?_⟩⟩
  · rw [hexec, start_of_active hactive, withTable_table]
  · rintro n ⟨k, hk, hfree⟩ hleast
    exact ⟨by rw [hexec, start_of_free hnew hk hfree hleast], Job.isDue_iff.2 ⟨rfl, by rw [sdiff32_add_self]; decide⟩⟩
  · rw [hexec, start_of_full hfull, withTable_table]

/-- Settles O23: each stop deactivates the slots it selects on the selected table. -/
theorem jobStopsClearTheMatchingSlots : Obligations.JobStopsClearTheMatchingSlots := by
  intro s tbl t i htbl cleared
  have hclear : ∀ hit : Job → Bool, onTable tbl (·.deactivate hit) s = .next (cleared hit) := fun hit => by
    rw [onTable_eq_withTable htbl, deactivate_eq]
  refine ⟨rfl, rfl, rfl, hclear _, hclear _, ?_⟩
  simp only [Bool.decide_and]
  exact hclear _

end Sys2Proof.Machine
end

section
/-!
SUPPORT. The build, entry by entry: the status byte of each place of the array and the force bits left before it (45_status_frame.md
R112 to R114), and the frame stored (R115 to R118). The word of a transaction with an operand (30_encoding.md R50).
-/

namespace Sys2Proof.Machine

variable {s t : State} {force : U32} {i j k n : Nat}

/-! ### Masks -/

theorem getLsbD_and_not {x y : U32} : (x &&& ~~~y).getLsbD k = true ↔ x.getLsbD k = true ∧ y.getLsbD k = false := by
  rw [BitVec.getLsbD_and, BitVec.getLsbD_not, Bool.and_eq_true, Bool.and_eq_true, Bool.not_eq_true', decide_eq_true_eq]
  exact and_congr_right fun hx => and_iff_right (BitVec.lt_of_getLsbD hx)

/-- A mask loses nothing to the bits it does not have. -/
theorem and_not_eq_self {x y : U32} (h : x &&& y = 0#32) : x &&& ~~~y = x := by
  calc x &&& ~~~y = (x &&& y) ||| (x &&& ~~~y) := by rw [h, BitVec.zero_or]
    _ = x := by rw [← BitVec.and_or_distrib_left, BitVec.or_not_self, BitVec.and_allOnes]

/-- The masks of two addresses are equal where they share a bit (00_scope.md R12). -/
theorem addrBit_eq_of_getLsbD {a b : Byte} (ha : (addrBit a).getLsbD k = true) (hb : (addrBit b).getLsbD k = true) :
    addrBit a = addrBit b := by
  simp only [addressMaskIsOneBit _ k, decide_eq_true_eq] at ha hb
  rw [BitVec.eq_of_toNat_eq (x := a) (y := b) (by omega)]

/-- Two entries whose masks share a bit are the same connector, so they are triggered alike. -/
theorem entryTrig_eq_of_getLsbD (hi : (s.entryMask i).getLsbD k = true) (hj : (s.entryMask j).getLsbD k = true) :
    s.entryTrig i = s.entryTrig j := by
  unfold State.entryTrig
  rw [show s.entryMask i = s.entryMask j from addrBit_eq_of_getLsbD hi hj]

/-! ### The status byte of an entry, and the force bits before it -/

/-- The status byte of a configured entry to which no one-shot applies: force while triggered, then derived (R113, R114). -/
def State.forcedOrDerived (s : State) (j : Nat) : Byte :=
  if s.forceTrig &&& s.entryMask j ≠ 0#32 ∧ s.entryTrig j = true then ST_ALERT
  else if s.entryAlive j = false then s.params.stIdle
  else if s.entryTrig j = true then s.params.stTrig else s.params.stAlive

/-- Status byte `j` of a build from `s` (R113). -/
def State.statusByte (s : State) (j : Nat) : Byte :=
  if s.cfgCount ≤ j then s.params.stIdle else if s.oneshotHits j = true then ST_ALERT else s.forcedOrDerived j

/-- `force` is the force mask of a build from `s` as the entries before `j` leave it: a bit of `force_trig` stays unless an entry of that
bit was found not triggered, without a one-shot (R113). -/
def State.ForceBefore (s : State) (j : Nat) (force : U32) : Prop :=
  ∀ k, force.getLsbD k = true ↔ s.forceTrig.getLsbD k = true ∧
    ∀ i < j, i < s.cfgCount → (s.entryMask i).getLsbD k = true → s.oneshotHits i = true ∨ s.entryTrig i = true

theorem forceBefore_zero (s : State) : s.ForceBefore 0 s.forceTrig := fun _ =>
  ⟨fun h => ⟨h, nofun⟩, fun h => h.1⟩

/-- The entries before `j` leave the force bit of entry `j` alone where `j` is triggered. -/
theorem State.ForceBefore.and_entryMask (h : s.ForceBefore j force) (htrig : s.entryTrig j = true) :
    force &&& s.entryMask j = s.forceTrig &&& s.entryMask j := by
  refine BitVec.eq_of_getLsbD_eq fun k _ => ?_
  rw [BitVec.getLsbD_and, BitVec.getLsbD_and]
  cases hj : (s.entryMask j).getLsbD k with
  | false => rw [Bool.and_false, Bool.and_false]
  | true =>
    have hkept : force.getLsbD k = true ↔ s.forceTrig.getLsbD k = true := (h k).trans <| and_iff_left fun i _ _ hi =>
      .inr ((entryTrig_eq_of_getLsbD hi hj).trans htrig)
    rw [Bool.and_true, Bool.and_true, Bool.eq_iff_iff, hkept]

/-- The next entry keeps the force mask where it is past the map, one-shot or triggered. -/
theorem State.ForceBefore.succ_of_kept (h : s.ForceBefore j force)
    (hj : j < s.cfgCount → s.oneshotHits j = true ∨ s.entryTrig j = true) : s.ForceBefore (j + 1) force := fun k =>
  (h k).trans <| and_congr_right fun _ => by
    rw [Nat.forall_lt_succ_right]
    exact (and_iff_left fun hlt _ => hj hlt).symm

/-- The next entry clears its bit where it is not triggered, without a one-shot. -/
theorem State.ForceBefore.succ_of_cleared (h : s.ForceBefore j force) (hj : j < s.cfgCount) (hshot : s.oneshotHits j = false)
    (htrig : s.entryTrig j = false) : s.ForceBefore (j + 1) (force &&& ~~~s.entryMask j) := fun k => by
  rw [getLsbD_and_not, h k, and_assoc, Nat.forall_lt_succ_right]
  simp [hj, hshot, htrig]

/-! ### `Resolve` -/

/-- `Derived` by cases (R114). -/
theorem derivedStatus_eq (p : Params) (al tr : Bool) :
    derivedStatus p al tr = if al = false then p.stIdle else if tr = true then p.stTrig else p.stAlive := by
  cases al <;> rfl

/-- `Resolve` of a configured entry: entries (1), (2) and (3) of the priority list; the bit of an entry that is not triggered is clear
after (2) and (3) alike (R113). -/
theorem resolveMask_entryMask (s : State) (j : Nat) (force : U32) :
    resolveMask s (s.entryMask j) force =
      if s.oneshotHits j = true then (ST_ALERT, force)
      else if force &&& s.entryMask j ≠ 0#32 ∧ s.entryTrig j = true then (ST_ALERT, force)
      else (derivedStatus s.params (s.entryAlive j) (s.entryTrig j),
        if s.entryTrig j = true then force else force &&& ~~~s.entryMask j) := by
  have hshot : (s.oneshotAll = true ∨ s.oneshotMask &&& s.entryMask j ≠ 0#32) ↔ s.oneshotHits j = true := by
    rw [State.oneshotHits, Bool.or_eq_true, decide_eq_true_eq]
  have htrig : decide (s.trigView &&& s.entryMask j ≠ 0#32) = s.entryTrig j := rfl
  have halive : decide (s.aliveView &&& s.entryMask j ≠ 0#32) = s.entryAlive j := rfl
  simp only [resolveMask, hshot, htrig, halive]
  by_cases hforce : force &&& s.entryMask j = 0#32
  · simp [hforce, and_not_eq_self hforce]
  · cases s.entryTrig j <;> simp [hforce]

/-- `Resolve` of place `j` gives its status byte, and the force mask that place `j + 1` starts from (R113). -/
theorem resolve_statusByte (hmap : s.cfgCount ≤ s.cfg.length) (h : s.ForceBefore j force) :
    ∃ force', resolve s j force = .next (s.statusByte j, force') ∧ s.ForceBefore (j + 1) force' := by
  unfold resolve State.statusByte
  by_cases hj : s.cfgCount ≤ j
  · rw [if_pos hj, if_pos hj]
    exact ⟨force, rfl, h.succ_of_kept fun hlt => absurd hlt (Nat.not_lt.2 hj)⟩
  have hlt : j < s.cfgCount := Nat.not_le.1 hj
  have hlen : j < s.cfg.length := hlt.trans_le hmap
  have hmask : addrBit s.cfg[j] = s.entryMask j := by rw [State.entryMask, List.getD_eq_getElem _ _ hlen]
  rw [if_neg hj, if_neg hj, memRead_of_lt hlen, andThen_next, hmask, resolveMask_entryMask, State.forcedOrDerived, derivedStatus_eq]
  cases hshot : s.oneshotHits j with
  | true => exact ⟨force, rfl, h.succ_of_kept fun _ => .inl hshot⟩
  | false =>
    cases htrig : s.entryTrig j with
    | true =>
      refine ⟨force, ?_, h.succ_of_kept fun _ => .inr htrig⟩
      rw [h.and_entryMask htrig]
      by_cases hforce : s.forceTrig &&& s.entryMask j = 0#32 <;> simp [hforce]
    | false => exact ⟨_, by simp, h.succ_of_cleared hlt hshot htrig⟩

/-! ### One-shot "all" (R119) -/

theorem oneshotHits_of_all (hall : s.oneshotAll = true) (j : Nat) : s.oneshotHits j = true := by
  rw [State.oneshotHits, hall, Bool.true_or]

theorem statusByte_of_all (hall : s.oneshotAll = true) (hj : j < s.cfgCount) : s.statusByte j = ST_ALERT := by
  rw [State.statusByte, if_neg (Nat.not_le.2 hj), if_pos (oneshotHits_of_all hall j)]

/-- A build in which every entry is one-shot clears no force bit. -/
theorem State.ForceBefore.eq_of_all (h : s.ForceBefore j force) (hall : s.oneshotAll = true) : force = s.forceTrig :=
  BitVec.eq_of_getLsbD_eq fun k _ => Bool.eq_iff_iff.2 <|
    (h k).trans (and_iff_left fun i _ _ _ => .inl (oneshotHits_of_all hall i))

/-! ### The build -/

/-- The status bytes from place `j` on, and the force mask after them (R111). -/
theorem resolveFrom_statusBytes (hmap : s.cfgCount ≤ s.cfg.length) (h : s.ForceBefore j force) :
    ∃ force', resolveFrom s n j force = .next ((List.range' j n).map s.statusByte, force') ∧ s.ForceBefore (j + n) force' := by
  induction n generalizing j force with
  | zero => exact ⟨force, rfl, h⟩
  | succ n ih =>
    obtain ⟨force₁, hj, h₁⟩ := resolve_statusByte hmap h
    obtain ⟨force₂, hrest, h₂⟩ := ih h₁
    exact ⟨force₂, by rw [resolveFrom, hj, andThen_next, hrest, andThen_next]; rfl, by rwa [Nat.add_right_comm] at h₂⟩

/-- The status array of a build (R111). -/
def State.statusBytes (s : State) : Bytes := (List.range s.params.maxCfg).map s.statusByte

theorem statusBytes_length (s : State) : s.statusBytes.length = s.params.maxCfg := by simp [State.statusBytes]

theorem getElem?_statusBytes (hj : j < s.params.maxCfg) : s.statusBytes[j]? = some (s.statusByte j) := by
  simp [State.statusBytes, hj]

/-- A completed build that leaves the force mask `force` (R115, R117, R118). -/
def State.built (s : State) (force : U32) : State :=
  { s with
    stBuf := statusFrame s.params s.statusExt s.statusBytes ++ s.stBuf.drop s.params.statusTotal
    stLen := s.params.statusTotal
    forceTrig := force
    oneshotAll := false
    oneshotMask := 0#32 }

/-- What a build needs of the state to complete: a slot that holds the frame, and the map's entries within its array. -/
structure State.CanBuild (s : State) : Prop where
  fits : s.params.statusTotal ≤ s.params.statusBufCap
  slot : s.stBuf.length = s.params.statusBufCap
  map : s.cfgCount ≤ s.cfg.length

theorem canBuild_of_boundsOk (hs : s.BoundsOk) (hfits : s.params.statusTotal ≤ s.params.statusBufCap) : s.CanBuild := by
  obtain ⟨⟨hcfg, hcount, -⟩, ⟨hslot, -⟩, -⟩ := hs
  exact ⟨hfits, hslot, hcfg ▸ hcount⟩

theorem State.CanBuild.built (hs : s.CanBuild) (force : U32) : (s.built force).CanBuild := by
  obtain ⟨hfits, hslot, hmap⟩ := hs
  refine ⟨hfits, ?_, hmap⟩
  have hframe : (statusFrame s.params s.statusExt s.statusBytes).length = s.params.statusTotal := by
    rw [statusFrame_length, statusBytes_length, Params.statusTotal]
  rw [State.built, List.length_append, List.length_drop, hframe, hslot, Nat.add_sub_cancel' hfits]

theorem statusOversize_iff : s.statusOversize = true ↔ s.params.statusBufCap < s.params.statusTotal := decide_eq_true_iff

/-- A build of a frame that fits stores the status bytes, and leaves the force mask as the places of the array leave it (R111). -/
theorem build_of_canBuild (hs : s.CanBuild) :
    ∃ force, build s = .next (s.built force) ∧ s.ForceBefore s.params.maxCfg force := by
  obtain ⟨force, hbytes, hforce⟩ := resolveFrom_statusBytes (n := s.params.maxCfg) hs.map (forceBefore_zero s)
  rw [← List.range_eq_range'] at hbytes
  rw [Nat.zero_add] at hforce
  have hsize : s.statusOversize = false := Bool.eq_false_iff.2 fun h => (statusOversize_iff.1 h).not_ge hs.fits
  exact ⟨force, build_eq_next.2 (.inr ⟨hsize, _, hbytes, hs.slot ▸ hs.fits, rfl⟩), hforce⟩

/-- Status byte `j` is byte `6 + j` of the slot after a build (30_encoding.md R59). -/
theorem getElem?_built_stBuf (hj : j < s.params.maxCfg) : (s.built force).stBuf[6 + j]? = some (s.statusByte j) := by
  have hlen : j < s.statusBytes.length := statusBytes_length s ▸ hj
  rw [← getElem?_statusBytes hj]
  simp [State.built, statusFrame, List.getElem?_append_left, hlen, Nat.add_comm 6 j]

/-- A build leaves no one-shot for the next (R118). -/
theorem built_statusByte (hj : j < s.cfgCount) : (s.built force).statusByte j = (s.built force).forcedOrDerived j := by
  have hshot : (s.built force).oneshotHits j = false := by simp [State.oneshotHits, State.built]
  have hcount : ¬ (s.built force).cfgCount ≤ j := Nat.not_le.2 hj
  rw [State.statusByte, if_neg hcount, hshot, if_neg Bool.false_ne_true]

/-- A build writes neither the observation nor `status_ext`. -/
theorem build_keeps_obs_statusExt (h : build s = .next t) : t.obs = s.obs ∧ t.statusExt = s.statusExt := by
  obtain ⟨-, rfl⟩ | ⟨-, r, -, -, rfl⟩ := build_eq_next.1 h <;> exact ⟨rfl, rfl⟩

theorem build_of_oversize (h : s.params.statusBufCap < s.params.statusTotal) : build s = .next s :=
  build_eq_next.2 (.inl ⟨statusOversize_iff.2 h, rfl⟩)

/-- Within the bounds a build completes, whether or not its frame fits and in any configuration. -/
theorem build_completes (hs : s.BoundsOk) : ∃ t, build s = .next t := by
  by_cases hfits : s.params.statusTotal ≤ s.params.statusBufCap
  · obtain ⟨force, hbuild, -⟩ := build_of_canBuild (canBuild_of_boundsOk hs hfits)
    exact ⟨_, hbuild⟩
  · exact ⟨s, build_of_oversize (Nat.not_le.1 hfits)⟩

/-! ### Port words with an operand -/

/-- The word of a transaction with `RES = 0` is its `OP` over its `DATA` (30_encoding.md R50). -/
theorem portWordOf_eq_or (op : BitVec 4) (data : Byte) : portWordOf op data = op.setWidth 16 <<< 12 ||| data.setWidth 16 := by
  have hop : op.toNat < 2 ^ 4 := op.isLt
  have hdata : data.toNat < 2 ^ 8 := data.isLt
  have hshift : op.toNat <<< 12 < 2 ^ 16 := by
    rw [Nat.shiftLeft_eq]
    omega
  apply BitVec.eq_of_toNat_eq
  rw [portWordOf, BitVec.toNat_append, BitVec.toNat_append, BitVec.toNat_or, BitVec.toNat_shiftLeft, BitVec.toNat_setWidth,
    BitVec.toNat_setWidth, Nat.mod_eq_of_lt (hop.trans (by decide)), Nat.mod_eq_of_lt hshift, Nat.mod_eq_of_lt (hdata.trans (by decide)),
    BitVec.toNat_zero, Nat.zero_shiftLeft, Nat.zero_or]

end Sys2Proof.Machine
end

section
/-!
CERTIFICATES. The statements of 45_status_frame.md.
-/

namespace Sys2Proof.Machine

/-- Settles O43: place by place each status byte is resolved, and the force mask is the one that the entries before it leave. -/
theorem buildStoresTheResolvedFrame : Obligations.BuildStoresTheResolvedFrame := by
  intro s hs hfits
  have hcan := canBuild_of_boundsOk hs hfits
  obtain ⟨force, hbuild, hforce⟩ := build_of_canBuild hcan
  have ⟨⟨_, hmap, _⟩, _⟩ := hs
  refine ⟨s.statusBytes, force, statusBytes_length s, hbuild, fun j hj => getElem?_statusBytes hj, fun k => ?_⟩
  rw [hforce k]
  exact and_congr_right fun _ => ⟨fun h j hj => h j (hj.trans_le hmap) hj, fun h j _ hj => h j hj⟩

/-- Settles O44: with every entry one-shot the first build clears no force bit, and it leaves no one-shot for the second. -/
theorem oneshotIsConsumedOnce : Obligations.OneshotIsConsumedOnce := by
  intro s hs hfits hall
  have hcan := canBuild_of_boundsOk hs hfits
  obtain ⟨force, hbuild, hforce⟩ := build_of_canBuild hcan
  obtain rfl := hforce.eq_of_all hall
  obtain ⟨force, hbuild', -⟩ := build_of_canBuild (hcan.built s.forceTrig)
  refine ⟨_, _, hbuild, hbuild', fun j hj => ?_⟩
  have ⟨⟨_, hmap, _⟩, _⟩ := hs
  have hmax : j < s.params.maxCfg := hj.trans_le hmap
  constructor
  · rw [getElem?_built_stBuf hmax, statusByte_of_all hall hj]
    rfl
  · exact (getElem?_built_stBuf (s := s.built s.forceTrig) hmax).trans (congrArg some (built_statusByte hj))

/-- Settles O47: a build within the bounds completes, and writes neither `status_ext` nor the observation. -/
theorem buttonSetsBitsAndRebuilds : Obligations.ButtonSetsBitsAndRebuilds := by
  intro s bits hs
  obtain ⟨t, hbuild⟩ := build_completes (s := { s with statusExt := s.statusExt ||| bits }) hs
  obtain ⟨hobs, hext⟩ := build_keeps_obs_statusExt hbuild
  have hissuer : t.issuer = s.issuer := (build_sameOutside hbuild).issuer
  refine ⟨congrArg _ (portWordOf_eq_or 0x4#4 bits), t, hbuild, ?_, hext⟩
  calc exec (.btn bits) s = .next (respond .ack t) := andThen_eq_next.2 ⟨t, hbuild, rfl⟩
    _ = .next { t with obs := s.obs ++ [.resp s.issuer .ack] } := by rw [respond, hobs, hissuer]

/-- Settles O42: the frame's length is what the build compares with the slot. -/
theorem oversizeBuildChangesNothing : Obligations.OversizeBuildChangesNothing := fun _ h => build_of_oversize h

/-- Settles O45: a peek of a slot within its bounds only responds. -/
theorem peekReadsTheSlot : Obligations.PeekReadsTheSlot := by
  rintro s ⟨-, ⟨hslot, hlen⟩, -⟩
  have hpeek : exec .stPeek s = .next (respond s.peekResponse s) := execStPeek_eq_respond (hslot ▸ hlen)
  refine ⟨rfl, fun hempty => ?_, fun hfilled => ?_⟩
  · rw [hpeek, State.peekResponse, if_pos hempty, respond]
  · rw [hpeek, State.peekResponse, if_neg hfilled, respond]

/-- Settles O46: marking the slot sent is one update and a response. -/
theorem sentEmptiesTheSlot : Obligations.SentEmptiesTheSlot := fun _ => ⟨rfl, rfl⟩

end Sys2Proof.Machine
end

section
/-!
SUPPORT. What the host-command rules turn on: which codes `DISPATCH` answers for and with what (46_host_commands.md R124, R125), a
command by its list (R127), and the active pairs of an upload, read from the front and by place (R128).
-/

namespace Sys2Proof

variable {p : Params} {sc g a : Byte} {pl : Bytes}

/-! ### The domain of `DISPATCH` and its fixed entries -/

/-- The named codes are in dom(DISPATCH), since none of them is `SC_STATUS_REPLY` (R124, R125). -/
theorem Params.inDom_of_mem_namedCodes (hok : p.Conditions) (h : sc ∈ p.namedCodes) : p.InDom sc := by
  obtain ⟨-, ⟨-, -, hnodup, -⟩, -⟩ := hok
  exact ⟨fun hreply => hnodup.notMem (hreply ▸ h), .inl h⟩

theorem Params.not_inDom_scStatusReply (p : Params) : ¬ p.InDom p.scStatusReply := fun h => h.1 rfl

theorem Params.scPoll_ne_scMapUpload (hok : p.Conditions) : p.scPoll ≠ p.scMapUpload := by
  obtain ⟨-, ⟨-, -, hnodup, -⟩, -⟩ := hok
  have hpoll : p.scPoll ∉ [p.scLedCtrl, p.scOneshotLedReset, p.scMapUpload, p.scLedReset, p.scRelaySet, p.scBtnReset, p.scPxMask] :=
    hnodup.of_cons.notMem
  exact fun h => hpoll (by simp [h])

theorem Params.dispatch_scMapUpload (hok : p.Conditions) (g a : Byte) (pl : Bytes) :
    p.dispatch p.scMapUpload g a pl = some [{ code := 0x01#8, bytes := pl }] :=
  Params.dispatch_eq_some.2 ⟨Params.inDom_of_mem_namedCodes hok (by simp [Params.namedCodes]), .inl ⟨rfl, rfl⟩⟩

theorem Params.dispatch_scPoll (hok : p.Conditions) (g a : Byte) (pl : Bytes) : p.dispatch p.scPoll g a pl = some [] :=
  Params.dispatch_eq_some.2
    ⟨Params.inDom_of_mem_namedCodes hok (by simp [Params.namedCodes]), .inr (.inl ⟨Params.scPoll_ne_scMapUpload hok, rfl, rfl⟩)⟩

end Sys2Proof

namespace Sys2Proof.Machine

variable {s : State}

/-! ### Commands -/

/-- A command of a code in dom(DISPATCH) applies its list and builds once (R127). -/
theorem hostCommand_of_dispatch {sc g a : Byte} {pl : Bytes} {es : List EffectRec} (h : s.params.dispatch sc g a pl = some es) :
    hostCommand sc g a pl s = (applyEffects es (noteActivity s)).andThen build := by
  rw [hostCommand, h]

theorem applyEffects_singleton (e : EffectRec) (s : State) : applyEffects [e] s = applyEffect e s := by
  rw [applyEffects]
  cases applyEffect e s <;> rfl

/-- A host frame whose third byte is a code outside dom(DISPATCH) is taken by the unrecognised arm (R126). -/
theorem hostFrame_of_not_inDom {f : Bytes} {sc : Byte} (hsc : f[2]? = some sc) (hdom : ¬ s.params.InDom sc) :
    hostFrame f s = .next (noteActivity s) := by
  match f, hsc with
  | g :: a :: _ :: pl, rfl =>
    rw [hostFrame_eq_hostCommand]
    exact hostCommand_of_not_inDom hdom

/-! ### Active pairs -/

/-- The active pairs of a payload are its first pair, where that is active, and those of the payload after it. -/
theorem activePairs_cons_cons (n : Nat) (a st : Byte) (rest : Bytes) :
    activePairs (n + 1) (a :: st :: rest) = if st = 0x01#8 then a :: activePairs n rest else activePairs n rest := by
  have hpairs : min (n + 1) ((a :: st :: rest).length / 2) = min n (rest.length / 2) + 1 := by
    simp only [List.length_cons]
    omega
  simp only [activePairs, hpairs, List.range_succ_eq_map, List.filterMap_cons, List.filterMap_map, Function.comp_def, Nat.mul_add_one]
  by_cases hst : st = 0x01#8
  · simp [hst]
  · simp [hst]

/-- Pairs read from the front of the payload are the pairs read by their places in it (R128). -/
theorem activeEntries_eq_activePairs (n : Nat) (pairs : Bytes) : activeEntries n pairs = activePairs n pairs := by
  induction n generalizing pairs with
  | zero => simp [activeEntries, activePairs]
  | succ n ih =>
    match pairs with
    | [] | [_] => simp [activeEntries, activePairs]
    | a :: st :: rest =>
      rw [activePairs_cons_cons, activeEntries, ih]
      rfl

end Sys2Proof.Machine
end

section
/-!
CERTIFICATES. The statements of 46_host_commands.md.
-/

namespace Sys2Proof.Machine

/-- Settles O18: the named codes are distinct and none is `SC_STATUS_REPLY`, so each of the three codes has its own arm of `DISPATCH`. -/
theorem fixedDispatchEntries : Obligations.FixedDispatchEntries := by
  intro s g a pl hok
  have hcond := s.params.ok_iff.1 hok
  have hmap := Params.dispatch_scMapUpload hcond g a pl
  have hpoll := Params.dispatch_scPoll hcond g a pl
  have hreply := s.params.not_inDom_scStatusReply
  refine ⟨hmap, hpoll, Params.dispatch_of_not_inDom hreply, hostCommand_of_dispatch hpoll, ?_, hostCommand_of_not_inDom hreply⟩
  calc exec (.scMapUpload g a pl) s
      = (applyEffects [{ code := 0x01#8, bytes := pl }] (noteActivity s)).andThen build := hostCommand_of_dispatch hmap
    _ = Res.andThen (exec (.effMapUpload pl) (noteActivity s)) build := by rw [applyEffects_singleton]; rfl

/-- Settles O19: a record of the open part comes from a row, and every row of a well-formed configuration obeys the table. -/
theorem dispatchListsObeyTheirTable : Obligations.DispatchListsObeyTheirTable := by
  intro p hok
  have hcond := p.ok_iff.1 hok
  have ⟨_, ⟨_, _, hnodup, _⟩, _⟩ := hcond
  exact ⟨hnodup, fun sc => Params.inDom_of_mem_namedCodes hcond, fun sc g a pl es hd e => Params.dispatch_record_lawful hcond hd⟩

/-- Settles O20: such a frame is too short to have a service code, or has one that `DISPATCH` does not answer for. -/
theorem unrecognisedHostFramesOnlyNoteActivity : Obligations.UnrecognisedHostFramesOnlyNoteActivity := by
  intro s
  refine ⟨fun f hf => ⟨?_, rfl⟩, fun g a pl => hostCommand_of_not_inDom s.params.not_inDom_scStatusReply⟩
  obtain hshort | ⟨sc, hsc, hdom⟩ := hf
  · exact hostFrame_of_short hshort
  · exact hostFrame_of_not_inDom hsc hdom

/-- Settles O21: the addresses stored are at most `MAX_CFG`, the size of the map, so the write stays inside it. -/
theorem mapUploadReplacesTheMap : Obligations.MapUploadReplacesTheMap := by
  rintro s ⟨⟨hsize, -⟩, -⟩
  refine ⟨fun _ => rfl, rfl, ?_⟩
  intro n pairs new
  have hnew : uploadedMap s.params.maxCfg n.toNat pairs = new := by rw [uploadedMap, activeEntries_eq_activePairs]
  have hfits : new.length ≤ s.cfg.length := hsize ▸ hnew ▸ uploadedMap_length_le s.params.maxCfg n.toNat pairs
  exact execEffMapUpload_eq_next.2 (.inr ⟨n, pairs, rfl, hnew ▸ hfits, by rw [hnew]⟩)

/-- Settles O24: each of the six effects is one unconditional update, the broadcast request's once its selector is known. -/
theorem plainEffects : Obligations.PlainEffects := by
  intro s all mask value
  have hsl : exec (.effBcastReq 0#8) s = _ := execEffBcastReq_eq_next.2 (.inl ⟨rfl, rfl⟩)
  have hpx : exec (.effBcastReq 1#8) s = _ := execEffBcastReq_eq_next.2 (.inr ⟨rfl, rfl⟩)
  exact ⟨fun _ => rfl, rfl, rfl, rfl, rfl, rfl, hsl, hpx, rfl, rfl, rfl, rfl, rfl⟩

end Sys2Proof.Machine
end

section
/-!
SUPPORT. Who writes which piece of the state (60_exceptions.md R147): for each port transaction, the state without the pieces that the
table gives it, which the transaction leaves as it is.
-/

namespace Sys2Proof.Machine

variable {s t : State}

/-! ### The pieces of each writer -/

/-- The queue without what a push writes (43_tx_queues.md R95). -/
def Queue.withoutPushed (q : Queue) : Queue := { q with slot := [], head := 0, drops := 0#32 }

/-- The queue without what a pop writes (43_tx_queues.md R96). -/
def Queue.withoutPopped (q : Queue) : Queue := { q with tail := 0 }

/-- The table without what `EmitOne` writes (44_led_jobs.md R108): its jobs, with no tick and no cursor. -/
def JobTable.withoutEmitted (j : JobTable) : JobTable where
  slots := j.jobs.map fun k => { target := k.1, ind := k.2.1, next := 0#32, active := k.2.2 }
  cur := 0

/-- The table without what the job effects write (44_led_jobs.md R104 to R107). -/
def JobTable.withoutJobs (j : JobTable) : JobTable := { j with slots := [] }

/-- The state without the pieces of `TICK`. -/
def State.withoutTick (s : State) : State := { s with
  tick := 0#32, idleCleared := false, ledActive := false, pollCur := 0
  bcastPendSl := false, bcastPendPx := false
  roundAlive := 0#32, roundTrig := 0#32, alive := 0#32, trig := 0#32
  slq := s.slq.withoutPushed, pxq := s.pxq.withoutPushed
  slj := s.slj.withoutEmitted, pxj := s.pxj.withoutEmitted
  obs := [] }

/-- The state without the pieces of `HRX`. -/
def State.withoutHrx (s : State) : State := { s with
  lastActivity := 0#32, bcastPendSl := false, bcastPendPx := false
  cfg := [], cfgCount := 0
  oneshotAll := false, oneshotMask := 0#32, forceTrig := 0#32
  statusExt := 0#8, stBuf := [], stLen := 0
  hp := Parser.reset 0
  slj := s.slj.withoutJobs, pxj := s.pxj.withoutJobs
  obs := [] }

/-- The state without the pieces of `SRX`. -/
def State.withoutSrx (s : State) : State := { s with
  roundAlive := 0#32, roundTrig := 0#32, alive := 0#32, trig := 0#32
  sp := Parser.reset 0
  obs := [] }

/-- The state without the pieces of `BTN`. -/
def State.withoutBtn (s : State) : State := { s with
  oneshotAll := false, oneshotMask := 0#32, forceTrig := 0#32
  statusExt := 0#8, stBuf := [], stLen := 0
  obs := [] }

/-- The state without the pieces that R147's table gives the transaction `i`, and without the observation, which is no state of the
block (log 6). -/
def State.without (s : State) : Instr → State
  | .tick => s.withoutTick
  | .hrx _ => s.withoutHrx
  | .srx _ => s.withoutSrx
  | .btn _ => s.withoutBtn
  | .slqPop => { s with slq := s.slq.withoutPopped, obs := [] }
  | .pxqPop => { s with pxq := s.pxq.withoutPopped, obs := [] }
  | .stSent => { s with stLen := 0, obs := [] }
  | _ => { s with obs := [] }

/-! ### Queues and tables -/

theorem withoutPushed_eq_iff {q q' : Queue} : q'.withoutPushed = q.withoutPushed ↔ q'.tail = q.tail := by
  simp [Queue.withoutPushed]

theorem withoutPopped_eq_iff {q q' : Queue} :
    q'.withoutPopped = q.withoutPopped ↔ q'.slot = q.slot ∧ q'.head = q.head ∧ q'.drops = q.drops := by
  simp [Queue.withoutPopped]

theorem jobs_withoutEmitted (j : JobTable) : j.withoutEmitted.jobs = j.jobs := by
  simp [JobTable.withoutEmitted, JobTable.jobs]

theorem withoutEmitted_eq_iff {j j' : JobTable} : j'.withoutEmitted = j.withoutEmitted ↔ j'.jobs = j.jobs := by
  constructor <;> intro h
  · rw [← jobs_withoutEmitted j', h, jobs_withoutEmitted]
  · rw [JobTable.withoutEmitted, h, JobTable.withoutEmitted]

theorem withoutJobs_eq_iff {j j' : JobTable} : j'.withoutJobs = j.withoutJobs ↔ j'.cur = j.cur := by
  simp [JobTable.withoutJobs]

/-- The producer never writes the tail (20_memory.md R45). -/
theorem push_tail {name : ArrayName} {n : Nat} {q : Queue} {f : Bytes} {r : Queue × Bool} (h : push name n q f = .next r) :
    r.1.tail = q.tail := by
  obtain ⟨-, rfl⟩ | ⟨-, -, rfl⟩ := push_eq_next.1 h <;> rfl

/-- The consumer writes the tail only (20_memory.md R45). -/
theorem pop_withoutPopped {name : ArrayName} {n : Nat} {q : Queue} {r : Queue × Option Bytes} (h : pop name n q = .next r) :
    r.1.withoutPopped = q.withoutPopped := by
  obtain ⟨-, rfl⟩ | ⟨-, f, -, rfl⟩ := pop_eq_next.1 h <;> rfl

/-- `EmitOne` writes no job and no tail (R108). -/
theorem emitOne_keeps {jn qn : ArrayName} {n m : Nat} {F : Byte → Byte → Bytes} {tick : U32} {j : JobTable} {q : Queue} {e : Emission}
    (h : emitOne jn qn n m F tick j q = .next e) : e.table.jobs = j.jobs ∧ e.queue.tail = q.tail := by
  obtain ⟨-, rfl⟩ | ⟨-, k, -, hslot⟩ := emitOne_eq_next.1 h
  · exact ⟨rfl, rfl⟩
  · obtain ⟨job, r, hjob, hpush, rfl⟩ := emitSlot_eq_next.1 hslot
    exact ⟨JobTable.jobs_emission hjob _ _, push_tail hpush⟩

/-! ### `TICK` -/

/-- With `slq` as pushes leave it and `slj` as emissions leave it, the pieces outside `TICK` are the same. -/
theorem withoutTick_slaveLink {q : Queue} {j : JobTable} (hq : q.tail = s.slq.tail) (hj : j.jobs = s.slj.jobs) :
    State.withoutTick { s with slq := q, slj := j } = s.withoutTick := by
  simp only [State.withoutTick, withoutPushed_eq_iff.2 hq, withoutEmitted_eq_iff.2 hj]

/-- The same of the pixel strip's queue and table. -/
theorem withoutTick_pixelStrip {q : Queue} {j : JobTable} (hq : q.tail = s.pxq.tail) (hj : j.jobs = s.pxj.jobs) :
    State.withoutTick { s with pxq := q, pxj := j } = s.withoutTick := by
  simp only [State.withoutTick, withoutPushed_eq_iff.2 hq, withoutEmitted_eq_iff.2 hj]

theorem serveBroadcasts_withoutTick (h : serveBroadcasts s = .next t) : t.withoutTick = s.withoutTick := by
  obtain ⟨u, hu, ht⟩ := serveBroadcasts_eq_next.1 h
  have hsl : u.withoutTick = s.withoutTick := by
    obtain ⟨-, rfl⟩ | ⟨-, r, hpush, rfl⟩ := serveSl_eq_next.1 hu
    · rfl
    · exact withoutTick_slaveLink (push_tail hpush) rfl
  have hpx : t.withoutTick = u.withoutTick := by
    obtain ⟨-, rfl⟩ | ⟨-, r, hpush, rfl⟩ := servePx_eq_next.1 ht
    · rfl
    · exact withoutTick_pixelStrip (push_tail hpush) rfl
  exact hpx.trans hsl

theorem idleTick_withoutTick (s : State) : (idleTick s).withoutTick = s.withoutTick := by
  rw [idleTick_eq]
  rfl

theorem pollOne_withoutTick (h : pollOne s = .next t) : t.withoutTick = s.withoutTick := by
  obtain ⟨a, r, -, hpush, rfl⟩ := pollOne_eq_next.1 h
  rw [commitAtZero_clampCursor_eq] at hpush ⊢
  exact withoutTick_slaveLink (push_tail hpush) rfl

theorem slaveLinkTurn_withoutTick (h : slaveLinkTurn s = .next t) : t.withoutTick = s.withoutTick := by
  obtain ⟨e, he, ⟨-, rfl⟩ | ⟨-, -, rfl⟩ | ⟨-, -, -, hpoll⟩ | ⟨-, -, -, rfl⟩⟩ := slaveLinkTurn_eq_next.1 h
  · obtain ⟨hjobs, htail⟩ := emitOne_keeps he
    exact withoutTick_slaveLink htail hjobs
  · rfl
  · exact pollOne_withoutTick hpoll
  · rfl

theorem pixelTurn_withoutTick (h : pixelTurn s = .next t) : t.withoutTick = s.withoutTick := by
  obtain ⟨e, he, rfl⟩ := pixelTurn_eq_next.1 h
  obtain ⟨hjobs, htail⟩ := emitOne_keeps he
  exact withoutTick_pixelStrip htail hjobs

theorem execTick_withoutTick (h : execTick s = .next t) : t.withoutTick = s.withoutTick := by
  obtain ⟨u, hu, hbranch⟩ := execTick_eq_next.1 h
  have hserved : u.withoutTick = (tickAdvance s).withoutTick := serveBroadcasts_withoutTick hu
  obtain ⟨-, rfl⟩ | ⟨-, v, w, hv, hw, rfl⟩ := hbranch
  · exact (idleTick_withoutTick u).trans hserved
  · have hturn : v.withoutTick = State.withoutTick { u with idleCleared := false } := slaveLinkTurn_withoutTick hv
    have hpixel : w.withoutTick = (emit .pxRequestFlush v).withoutTick := pixelTurn_withoutTick hw
    exact hpixel.trans (hturn.trans hserved)

/-! ### `HRX` -/

theorem onTable_withoutHrx {tbl : Byte} {op : JobTable → JobTable} (hop : ∀ j : JobTable, (op j).cur = j.cur)
    (h : onTable tbl op s = .next t) : t.withoutHrx = s.withoutHrx := by
  obtain ⟨-, rfl⟩ | ⟨-, rfl⟩ := onTable_eq_next.1 h <;> simp only [State.withoutHrx, withoutJobs_eq_iff.2 (hop _)]

theorem build_withoutBtn (h : build s = .next t) : t.withoutBtn = s.withoutBtn := by
  obtain ⟨-, rfl⟩ | ⟨-, r, -, -, rfl⟩ := build_eq_next.1 h <;> rfl

/-- The pieces of `BTN` are pieces of `HRX`, which builds too. -/
theorem withoutHrx_of_withoutBtn (h : t.withoutBtn = s.withoutBtn) : t.withoutHrx = s.withoutHrx :=
  show t.withoutBtn.withoutHrx = s.withoutBtn.withoutHrx from h ▸ rfl

theorem applyEffect_withoutHrx {e : EffectRec} (h : applyEffect e s = .next t) : t.withoutHrx = s.withoutHrx := by
  unfold applyEffect at h
  split at h
  · obtain ⟨-, rfl⟩ | ⟨n, pairs, -, -, rfl⟩ := execEffMapUpload_eq_next.1 h <;> rfl
  · exact onTable_withoutHrx (fun j => start_cur j e.target e.ind s.tick) h
  · exact onTable_withoutHrx (fun j => deactivate_cur j _) h
  · exact onTable_withoutHrx (fun j => deactivate_cur j _) h
  · exact onTable_withoutHrx (fun j => deactivate_cur j _) h
  · obtain ⟨-, rfl⟩ | ⟨-, rfl⟩ := execEffBcastReq_eq_next.1 h <;> rfl
  iterate 5 · exact Host.Outcome.next.inj h ▸ rfl
  · exact nomatch h

theorem applyEffects_withoutHrx {es : List EffectRec} (h : applyEffects es s = .next t) : t.withoutHrx = s.withoutHrx :=
  applyEffects_induction (P := fun u => u.withoutHrx = s.withoutHrx) (fun _ _ _ _ hu ht => (applyEffect_withoutHrx ht).trans hu) rfl h

theorem hostCommand_withoutHrx {sc g a : Byte} {pl : Bytes} (h : hostCommand sc g a pl s = .next t) : t.withoutHrx = s.withoutHrx := by
  obtain ⟨-, rfl⟩ | ⟨es, u, -, hu, ht⟩ := hostCommand_eq_next.1 h
  · rfl
  · have heffects : u.withoutHrx = (noteActivity s).withoutHrx := applyEffects_withoutHrx hu
    exact (withoutHrx_of_withoutBtn (build_withoutBtn ht)).trans heffects

theorem hostFrame_withoutHrx {f : Bytes} (h : hostFrame f s = .next t) : t.withoutHrx = s.withoutHrx := by
  obtain hf | ⟨sc, g, a, pl, hf⟩ := hostFrame_cases f s <;> rw [hf] at h
  · exact Host.Outcome.next.inj h ▸ rfl
  · exact hostCommand_withoutHrx h

theorem execHrx_withoutHrx {b : Byte} (h : execHrx b s = .next t) : t.withoutHrx = s.withoutHrx := by
  obtain ⟨⟨p, complete⟩, u, -, hu, rfl⟩ := execHrx_eq_next.1 h
  cases complete with
  | none => exact Host.Outcome.next.inj hu ▸ rfl
  | some f =>
    have htaken : u.withoutHrx = State.withoutHrx { s with hp := p } := hostFrame_withoutHrx hu
    exact htaken

/-! ### `SRX` -/

theorem slaveFrame_withoutSrx {f : Bytes} (h : slaveFrame f s = .next t) : t.withoutSrx = s.withoutSrx := by
  obtain hf | ⟨a, st, hcounts, hf⟩ := slaveFrame_cases f s <;> rw [hf] at h <;> obtain rfl := Host.Outcome.next.inj h
  · rfl
  · rw [statusReply_of_counts hcounts]
    rfl

theorem execSrx_withoutSrx {b : Byte} (h : execSrx b s = .next t) : t.withoutSrx = s.withoutSrx := by
  obtain ⟨⟨p, complete⟩, u, -, hu, rfl⟩ := execSrx_eq_next.1 h
  cases complete with
  | none => exact Host.Outcome.next.inj hu ▸ rfl
  | some f =>
    have htaken : u.withoutSrx = State.withoutSrx { s with sp := p } := slaveFrame_withoutSrx hu
    exact htaken

/-! ### The button's and the consumer's transactions -/

theorem execBtn_withoutBtn {bits : Byte} (h : execBtn bits s = .next t) : t.withoutBtn = s.withoutBtn := by
  obtain ⟨u, hu, ht⟩ := andThen_eq_next.1 h
  have hbuild : u.withoutBtn = State.withoutBtn { s with statusExt := s.statusExt ||| bits } := build_withoutBtn hu
  exact Host.Outcome.next.inj ht ▸ hbuild

theorem execSlqPop_withoutPopped (h : execSlqPop s = .next t) : t.without .slqPop = s.without .slqPop := by
  obtain ⟨r, hpop, ht⟩ := andThen_eq_next.1 h
  obtain rfl := Host.Outcome.next.inj ht
  exact congrArg (fun q => { s with slq := q, obs := [] }) (pop_withoutPopped hpop)

theorem execPxqPop_withoutPopped (h : execPxqPop s = .next t) : t.without .pxqPop = s.without .pxqPop := by
  obtain ⟨r, hpop, ht⟩ := andThen_eq_next.1 h
  obtain rfl := Host.Outcome.next.inj ht
  exact congrArg (fun q => { s with pxq := q, obs := [] }) (pop_withoutPopped hpop)

/-- Peeking answers, and writes nothing (45_status_frame.md R120). -/
theorem execStPeek_only_responds (h : execStPeek s = .next t) : ∃ r, t = respond r s := by
  unfold execStPeek at h
  split at h
  · exact ⟨.empty, (Host.Outcome.next.inj h).symm⟩
  · obtain ⟨f, -, ht⟩ := andThen_eq_next.1 h
    exact ⟨.frame f, (Host.Outcome.next.inj ht).symm⟩

/-! ### All port transactions -/

/-- A port transaction leaves everything but its own pieces as it is (R147). -/
theorem exec_without {i : Instr} (hi : portTransaction i = true) (h : exec i s = .next t) : t.without i = s.without i := by
  cases i with
  | tick => exact execTick_withoutTick h
  | hrx b => exact execHrx_withoutHrx h
  | srx b => exact execSrx_withoutSrx h
  | btn bits => exact execBtn_withoutBtn h
  | slqPop => exact execSlqPop_withoutPopped h
  | pxqPop => exact execPxqPop_withoutPopped h
  | stPeek =>
    obtain ⟨r, rfl⟩ := execStPeek_only_responds h
    rfl
  | stSent | slqDrops | pxqDrops => exact Host.Outcome.next.inj h ▸ rfl
  | reservedOp0 low | reservedOpB low | reservedOpC low | reservedOpD low | reservedOpE low | reservedOpF low =>
    exact Host.Outcome.next.inj h ▸ rfl
  | _ => exact nomatch hi

/-- A part of the state that does not depend on the transaction's own pieces stays as it is (R147). -/
theorem exec_keeps {α : Type} {i : Instr} (part : State → α) (hpart : ∀ u : State, part (u.without i) = part u)
    (hi : portTransaction i = true) (h : exec i s = .next t) : part t = part s := by
  rw [← hpart t, exec_without hi h, hpart s]

/-! ### The watchdog -/

/-- A byte hands a content on exactly where it is END in WAIT_END (42_parsers.md R84). -/
theorem complete_isSome_iff {name : ArrayName} {cap : Nat} {p : Parser} {b : Byte} {r : ParseStep}
    (h : parseByte name cap p b = .next r) : r.complete.isSome = true ↔ b = 0x16#8 ∧ p.state = .waitEnd := by
  obtain ⟨hstate, rfl⟩ | ⟨hstate, rfl⟩ | ⟨hstate, -, rfl⟩ | ⟨hstate, hb, rfl⟩ | ⟨hstate, hb, -, rfl⟩ := parseByte_eq_next.1 h
  · simp [hstate]
  · simp [hstate]
  · simp [hstate]
  · exact iff_of_false nofun fun hend => hb hend.1
  · exact iff_of_true rfl ⟨hb, hstate⟩

/-- A byte on the host channel writes `last_activity` exactly where it completes a frame (R87, R89). -/
theorem execHrx_lastActivity {b : Byte} (h : execHrx b s = .next t) :
    t.lastActivity = if b = 0x16#8 ∧ s.hp.state = .waitEnd then s.tick else s.lastActivity := by
  obtain ⟨⟨p, complete⟩, u, hbyte, hu, rfl⟩ := execHrx_eq_next.1 h
  rw [respond_lastActivity, ← if_congr (complete_isSome_iff hbyte) rfl rfl]
  cases complete with
  | none => exact Host.Outcome.next.inj hu ▸ rfl
  | some f =>
    obtain ⟨-, -, hact⟩ := (hostFrame_ignoresParsers f).keeps hu
    exact hact

end Sys2Proof.Machine
end

section
/-!
CERTIFICATES. The statements of 60_exceptions.md.
-/

namespace Sys2Proof.Machine

/-- Settles O58: `last_activity` is a piece of `HRX` alone, and a host byte writes it exactly where it completes a frame. -/
theorem onlyHostFramesRestartTheWatchdog : Obligations.OnlyHostFramesRestartTheWatchdog := by
  intro i s t hi h
  cases i with
  | hrx b =>
    have hact := execHrx_lastActivity h
    rw [Instr.hrx.injEq]
    exact ⟨fun hend => hact.trans (if_pos hend), fun hend => hact.trans (if_neg hend)⟩
  | _ => exact ⟨nofun, fun _ => exec_keeps State.lastActivity (fun _ => rfl) hi h⟩

/-- Settles O59: a transaction leaves everything but its own pieces as it is, so in each row of the table either the row names the
transaction or `hrest` says that the row's pieces are the same. -/
theorem stateIsWrittenByItsOwnersOnly : Obligations.StateIsWrittenByItsOwnersOnly := by
  intro i s t hi h hrx srx btn jobs nexts
  have hrest := exec_without hi h
  have hjobs (j : JobTable) : jobs j = j.jobs := rfl
  cases i with
  | tick =>
    simp only [State.without, State.withoutTick, State.mk.injEq, withoutPushed_eq_iff, withoutEmitted_eq_iff] at hrest
    simp [hjobs, hrest]
  | hrx b =>
    simp only [State.without, State.withoutHrx, State.mk.injEq, withoutJobs_eq_iff] at hrest
    simp [hrx, hrest]
  | srx b =>
    simp only [State.without, State.withoutSrx, State.mk.injEq] at hrest
    simp [srx, hrest]
  | btn bits =>
    simp only [State.without, State.withoutBtn, State.mk.injEq] at hrest
    simp [btn, hrest]
  | slqPop | pxqPop =>
    simp only [State.without, State.mk.injEq, withoutPopped_eq_iff] at hrest
    simp [hrest]
  | stSent | stPeek | slqDrops | pxqDrops
  | reservedOp0 _ | reservedOpB _ | reservedOpC _ | reservedOpD _ | reservedOpE _ | reservedOpF _ =>
    simp only [State.without, State.mk.injEq] at hrest
    simp [hrest]
  | _ => exact nomatch hi

end Sys2Proof.Machine
end

section
/-!
SUPPORT. The encoder undone, kind by kind: the fields of the encoder's port words (30_encoding.md R50), the content of its wire frames
(R54, R56) and the row of each content, and the row of each effect record (R63).
-/

namespace Sys2Proof

variable {p : Params}

/-! ### Port words -/

theorem portOp_append (op : BitVec 4) (low : BitVec 12) : portOp (op ++ low) = op := BitVec.extractLsb'_append_eq_left

theorem portLow_append (op : BitVec 4) (low : BitVec 12) : portLow (op ++ low) = low := BitVec.extractLsb'_append_eq_right

theorem portOp_portWordOf (op : BitVec 4) (data : Byte) : portOp (portWordOf op data) = op := portOp_append op (0#4 ++ data)

theorem portRes_portWordOf (op : BitVec 4) (data : Byte) : portRes (portWordOf op data) = 0#4 := by
  rw [portRes, portWordOf, BitVec.extractLsb'_append_eq_of_add_le (by decide), BitVec.extractLsb'_append_eq_left]

theorem portData_portWordOf (op : BitVec 4) (data : Byte) : portData (portWordOf op data) = data := by
  rw [portData, portWordOf, BitVec.extractLsb'_append_eq_of_add_le (by decide), BitVec.extractLsb'_append_eq_right]

theorem operandWord_portWordOf (owner : Agent) (op : BitVec 4) (data : Byte) (i : Byte → Instr) :
    operandWord owner owner (portWordOf op data) i = .ok (i data) := by
  rw [Machine.operandWord_eq_of_legal (portRes_portWordOf op data) rfl, portData_portWordOf]

/-- The encoder's word of a port transaction decodes to it, issued by the agent of its row (R50, R52). -/
theorem decode_encode_portTransaction {i : Instr} (hi : Machine.portTransaction i = true) : decode p (encode p i) = .ok i := by
  cases i with
  | tick | slqPop | pxqPop | stPeek | stSent | slqDrops | pxqDrops => rfl
  | hrx b | srx b | btn b => simp [encode, decode, decodePort, portOp_portWordOf, operandWord_portWordOf]
  | reservedOp0 low | reservedOpB low | reservedOpC low | reservedOpD low | reservedOpE low | reservedOpF low =>
    simp [encode, decode, decodePort, reservedWordOf, portOp_append, portLow_append]
  | _ => exact nomatch hi

/-! ### Wire frames -/

/-- The content of a frame is what stands between its LEN and its END, whatever its bytes (R54, R61). -/
theorem unframe_frameOf {cap : Nat} {content : Bytes} (hpos : 1 ≤ content.length) (hfits : content.length ≤ cap) (hcap : cap ≤ 255) :
    unframe cap (frameOf content) = .ok content := by
  have hlen : (BitVec.ofNat 8 content.length).toNat = content.length := by
    rw [BitVec.toNat_ofNat, Nat.mod_eq_of_lt (by omega)]
  have hne : BitVec.ofNat 8 content.length ≠ 0#8 := by
    intro hzero
    rw [hzero, BitVec.toNat_zero] at hlen
    omega
  simp [unframe, frameOf, hlen, hne, hfits]

/-- A frame of a content that fits the host channel decodes by the content (R54). -/
theorem decode_hostFrame (hok : p.Conditions) {f : Bytes} (hpos : 1 ≤ f.length) (hfits : f.length ≤ p.hostRxCap) :
    decode p (.hostFrame (frameOf f)) = decodeHost p f := by
  obtain ⟨⟨-, -, -, -, -, -, -, -, -, hcap, -⟩, -⟩ := hok
  rw [decode, unframe_frameOf hpos hfits hcap]

/-- A frame of a content that fits the slave channel decodes by the content (R56). -/
theorem decode_slaveFrame (hok : p.Conditions) {f : Bytes} (hpos : 1 ≤ f.length) (hfits : f.length ≤ p.slaveRxCap) :
    decode p (.slaveFrame (frameOf f)) = .ok (decodeSlave p f) := by
  obtain ⟨⟨-, -, -, -, -, -, -, -, -, -, -, hcap⟩, -⟩ := hok
  rw [decode, unframe_frameOf hpos hfits hcap]

theorem decode_hostFrameOf (hok : p.Conditions) {pl : Bytes} (hfits : p.HostFits pl) (sc g a : Byte) :
    decode p (hostFrameOf sc g a pl) = decodeHost p (g :: a :: sc :: pl) :=
  decode_hostFrame hok (Nat.succ_pos _) hfits

/-- Each code of a row has its own kind, since the codes are distinct (46_host_commands.md R124, R125). -/
theorem Params.hostCode_of_rows (h : (p.scStatusReply :: p.namedCodes).Nodup) :
    p.hostCode p.scPoll = .poll ∧ p.hostCode p.scLedCtrl = .ledCtrl ∧ p.hostCode p.scOneshotLedReset = .oneshotLedReset ∧
    p.hostCode p.scMapUpload = .mapUpload ∧ p.hostCode p.scLedReset = .ledReset ∧ p.hostCode p.scRelaySet = .relaySet ∧
    p.hostCode p.scBtnReset = .btnReset ∧ p.hostCode p.scPxMask = .pxMask ∧ p.hostCode p.scStatusReply = .statusReply := by
  have hrev := List.nodup_reverse.2 h
  simp [Params.namedCodes] at hrev
  simp [Params.hostCode, hrev]

/-- A code outside dom(DISPATCH) that is not `SC_STATUS_REPLY` is of no row's kind (R126). -/
theorem Params.hostCode_of_not_inDom {sc : Byte} (hdom : ¬ p.InDom sc) (hreply : sc ≠ p.scStatusReply) : p.hostCode sc = .unknown := by
  simp [Params.InDom, Params.namedCodes, hreply] at hdom
  simp [Params.hostCode, hreply, hdom]

/-- A content that the unrecognised arm takes decodes to its row (R126). -/
theorem decodeHost_of_unrecognised {f : Bytes} (h : p.Unrecognised f) : decodeHost p f = .ok (.hostUnrecognised f) := by
  match f with
  | [] | [_] | [_, _] => rfl
  | g :: a :: sc :: pl =>
    have hlong : ¬ (g :: a :: sc :: pl).length < 3 := by simp
    obtain ⟨hdom, hreply⟩ : ¬ p.InDom sc ∧ sc ≠ p.scStatusReply := h.resolve_left hlong
    rw [decodeHost, Params.hostCode_of_not_inDom hdom hreply]

/-- A content without the shape of a status reply decodes to the row of ignored shapes (42_parsers.md R90). -/
theorem decodeSlave_of_other_shape {f : Bytes} (h : ¬ p.StatusShape f) : decodeSlave p f = .slaveIgnoredShape f := by
  unfold decodeSlave
  split
  case h_1 sc addr state =>
    have hsc : sc ≠ p.scSlaveStatus := fun heq => h ⟨rfl, heq⟩
    exact if_pos hsc
  case h_2 => rfl

/-- A status reply decodes by its values (42_parsers.md R91). -/
theorem decode_slaveReply (hok : p.Conditions) (addr state : Byte) :
    decode p (.slaveFrame (frameOf [p.scSlaveStatus, addr, state])) =
      .ok (if ReplyCounts addr state then .slaveStatusReply addr state else .slaveIgnoredValue addr state) := by
  have ⟨⟨_, _, _, _, _, _, _, _, _, _, hcap, _⟩, _⟩ := hok
  have hframe := decode_slaveFrame hok (f := [p.scSlaveStatus, addr, state]) (Nat.succ_pos _) hcap
  rw [hframe, decodeSlave, if_neg (not_not.2 rfl)]

/-! ### Effect records -/

theorem selected_of_selectorOk {code tbl : Byte} {i : Instr} (hcode : code ∈ tblCodes) (h : SelectorOk code tbl) :
    selected tbl i = .ok i := if_pos (h hcode)

theorem selected_eq_ok {tbl : Byte} {i j : Instr} (h : selected tbl i = .ok j) : j = i := by
  unfold selected at h
  split_ifs at h
  exact (Except.ok.inj h).symm

/-- The numbers 1 to 11 are the codes of R63. -/
theorem mem_effectCodes_of_toNat {c : Byte} (hmin : 1 ≤ c.toNat) (hmax : c.toNat ≤ 11) : c ∈ effectCodes := by
  have hcodes : ∀ n < 12, 1 ≤ n → BitVec.ofNat 8 n ∈ effectCodes := by decide
  have hc := hcodes c.toNat (by omega) hmin
  rwa [BitVec.ofNat_toNat, BitVec.setWidth_eq] at hc

/-- Every other code is reserved, whatever the record's fields (R63). -/
theorem decodeEffect_of_reserved {e : EffectRec} (h : e.code ∉ effectCodes) : decodeEffect e = .ok (.reservedEffect e.code) := by
  unfold decodeEffect
  split
  case h_12 => rfl
  all_goals exact absurd (mem_effectCodes_of_toNat (by omega) (by omega)) h

/-! ### All encodings -/

/-- What the encoder gives for a well-formed instruction decodes to it: by its fields for a port word, by its content for a wire frame,
by its code for an effect record. -/
theorem decode_encode (hok : p.Conditions) {i : Instr} (hwf : i.wellFormed p = true) :
    decode p (encode p i) = .ok i := by
  have ⟨_, ⟨_, _, hcodes, _⟩, _⟩ := hok
  cases i with
  | tick | hrx | srx | btn | slqPop | pxqPop | stPeek | stSent | slqDrops | pxqDrops
  | reservedOp0 | reservedOpB | reservedOpC | reservedOpD | reservedOpE | reservedOpF => exact decode_encode_portTransaction rfl
  | scPoll g a pl | scLedCtrl g a pl | scOneshotLedReset g a pl | scMapUpload g a pl | scLedReset g a pl | scRelaySet g a pl
  | scBtnReset g a pl | scPxMask g a pl | scStatusReplyReceived g a pl =>
    have hfits : p.HostFits pl := of_decide_eq_true hwf
    simp only [encode, decode_hostFrameOf hok hfits, decodeHost, Params.hostCode_of_rows hcodes]
  | hostUnrecognised f =>
    obtain ⟨hpos, hfits, hrow⟩ := of_decide_eq_true hwf
    exact (decode_hostFrame hok hpos hfits).trans (decodeHost_of_unrecognised hrow)
  | slaveStatusReply addr state =>
    have hcounts : ReplyCounts addr state := of_decide_eq_true hwf
    rw [encode, decode_slaveReply hok, if_pos hcounts]
  | slaveIgnoredValue addr state =>
    have hcounts : ¬ ReplyCounts addr state := of_decide_eq_true hwf
    rw [encode, decode_slaveReply hok, if_neg hcounts]
  | slaveIgnoredShape f =>
    obtain ⟨hpos, hfits, hshape⟩ := of_decide_eq_true hwf
    rw [encode, decode_slaveFrame hok hpos hfits, decodeSlave_of_other_shape hshape]
  | slaveLinkFrameSent frame => cases frame <;> rfl
  | statusFrameSent => exact if_pos rfl
  | effJobStart | effJobStopInd | effJobStopAll | effJobRemoveExcept | effBcastReq =>
    exact selected_of_selectorOk (by decide) (of_decide_eq_true hwf)
  | effMapUpload | effOneshotSet | effForceSet | effRelaySet | effBtnReset | effPxMask => rfl
  | reservedEffect code => exact decodeEffect_of_reserved (of_decide_eq_true hwf)

end Sys2Proof
end

section
/-!
SUPPORT. What decodes runs: an effect record is applied, and a completed frame taken, as the row it decodes to (30_encoding.md R63,
42_parsers.md R89 to R91). What a host command leaves of the state, by the pieces of `HRX` (60_exceptions.md R147).
-/

namespace Sys2Proof.Machine

variable {s t : State}

/-! ### Effect records -/

/-- A reserved code is refused where the record is applied (30_encoding.md R63). -/
theorem applyEffect_of_reserved {e : EffectRec} (h : e.code ∉ effectCodes) (s : State) :
    applyEffect e s = execReservedEffect e.code s := by
  unfold applyEffect
  split
  case h_12 => rfl
  all_goals exact absurd (mem_effectCodes_of_toNat (by omega) (by omega)) h

/-- A record is applied by the row it decodes to: the row of its code, or the reserved row (R63). -/
theorem applyEffect_of_decodeEffect {e : EffectRec} {i : Instr} (h : decodeEffect e = .ok i) (s : State) :
    applyEffect e s = exec i s := by
  by_cases hcode : e.code ∈ effectCodes
  · obtain ⟨code, tbl, target, ind, all, mask, bytes⟩ := e
    simp only [effectCodes, List.mem_cons, List.not_mem_nil, or_false] at hcode
    obtain rfl | rfl | rfl | rfl | rfl | rfl | rfl | rfl | rfl | rfl | rfl := hcode
    · exact Except.ok.inj h ▸ rfl
    iterate 5 · exact selected_eq_ok h ▸ rfl
    iterate 5 · exact Except.ok.inj h ▸ rfl
  · rw [decodeEffect_of_reserved hcode] at h
    exact (applyEffect_of_reserved hcode s).trans (Except.ok.inj h ▸ rfl)

/-! ### Completed frames -/

/-- A completed host content is taken by the row it decodes to (42_parsers.md R89). -/
theorem hostFrame_of_decodeHost {f : Bytes} {i : Instr} (h : decodeHost s.params f = .ok i) : hostFrame f s = exec i s := by
  match f with
  | [] | [_] | [_, _] => exact Except.ok.inj h ▸ rfl
  | g :: a :: sc :: pl =>
    rw [decodeHost] at h
    rw [hostFrame]
    cases hcode : s.params.hostCode sc <;> rw [hcode] at h
    case further => exact nomatch h
    all_goals exact Except.ok.inj h ▸ rfl

/-- A completed slave content is taken by the row it decodes to (42_parsers.md R90, R91). -/
theorem slaveFrame_eq_exec (f : Bytes) (s : State) : slaveFrame f s = exec (decodeSlave s.params f) s := by
  match f with
  | [sc, addr, state] =>
    rw [slaveFrame, decodeSlave]
    split_ifs <;> rfl
  | [] | [_] | [_, _] | _ :: _ :: _ :: _ :: _ => rfl

/-! ### Host commands -/

/-- `s` with the pieces of `HRX` and the observation as they are in `t`. -/
def State.withHrx (s t : State) : State := { s with
  lastActivity := t.lastActivity, bcastPendSl := t.bcastPendSl, bcastPendPx := t.bcastPendPx
  cfg := t.cfg, cfgCount := t.cfgCount
  oneshotAll := t.oneshotAll, oneshotMask := t.oneshotMask, forceTrig := t.forceTrig
  statusExt := t.statusExt, stBuf := t.stBuf, stLen := t.stLen
  hp := t.hp
  slj := t.slj, pxj := t.pxj
  obs := t.obs }

/-- A state that agrees with `s` outside the pieces of `HRX` is `s` with those pieces as they are in it. -/
theorem eq_withHrx (h : t.withoutHrx = s.withoutHrx) : t = s.withHrx t :=
  show t.withoutHrx.withHrx t = s.withoutHrx.withHrx t from h ▸ rfl

/-- A command writes the current `tick` into `last_activity`, and no parser (42_parsers.md R86, R89). -/
theorem hostCommand_lastActivity_hp {sc g a : Byte} {pl : Bytes} (h : hostCommand sc g a pl s = .next t) :
    t.lastActivity = s.tick ∧ t.hp = s.hp := by
  rw [← hostFrame_eq_hostCommand] at h
  obtain ⟨hhp, -, hact⟩ := (hostFrame_ignoresParsers _).keeps h
  exact ⟨hact, hhp⟩

/-- The command of a named code has a list, applies it, builds and completes (46_host_commands.md R125, R127). -/
theorem hostCommand_of_named (hs : s.Ready) {sc : Byte} (hsc : sc ∈ s.params.namedCodes) (g a : Byte) (pl : Bytes) :
    ∃ es u t, s.params.dispatch sc g a pl = some es ∧ applyEffects es (noteActivity s) = .next u ∧ build u = .next t ∧
      hostCommand sc g a pl s = .next t := by
  obtain ⟨es, hd⟩ := Params.exists_dispatch_of_inDom (Params.inDom_of_mem_namedCodes hs.conditions hsc)
  obtain ⟨t, ht, -⟩ := hostCommand_answers hs sc g a pl
  obtain ⟨u, hu, hbuild⟩ := andThen_eq_next.1 ((hostCommand_of_dispatch hd).symm.trans ht)
  exact ⟨es, u, t, hd, hu, hbuild, ht⟩

end Sys2Proof.Machine
end

section
/-!
CERTIFICATES. The statements of 70_reset_and_hazards.md, and the statements that join the parts of the model: the encodings with what they
run, steps with instructions, reset with the invariant.
-/

namespace Sys2Proof.Machine

/-- Settles O51: `rst` is the reset of the state that the step takes it from, and the reset values are those of R37's table. -/
theorem resetInputGivesTheResetValues : Obligations.ResetInputGivesTheResetValues :=
  fun _ rest hok hport => step_eq_next.2 ⟨hok, .inr (.inl ⟨rest, hport, rfl⟩)⟩

/-- Settles O2: each kind of encoding is undone by its decoder, the frames since their contents fit and the service codes are distinct. -/
theorem decodeEncodeAgree : Obligations.DecodeEncodeAgree := fun p _ hok hwf => decode_encode (p.ok_iff.1 hok) hwf

/-- Settles O6: the decoder and the application of a record branch on its code alike. -/
theorem effectRecordsRunTheirRow : Obligations.EffectRecordsRunTheirRow := fun _ s _ h => applyEffect_of_decodeEffect h s

/-- Settles O7: the decoders and the handling of completed frames branch on the content alike. -/
theorem completedFramesRunTheirRow : Obligations.CompletedFramesRunTheirRow :=
  ⟨fun _ _ _ h => hostFrame_of_decodeHost h, slaveFrame_eq_exec⟩

/-- Settles O17: each of the eight rows is the command of its code; a command writes pieces of `HRX` only, and of those not the parser. -/
theorem namedHostFramesApplyTheirListAndBuild : Obligations.NamedHostFramesApplyTheirListAndBuild := by
  intro s g a pl hs x hx
  have hcommand : x.2 ∈ s.params.namedCodes ∧ exec x.1 s = hostCommand x.2 g a pl s := by
    simp only [List.mem_cons, List.not_mem_nil, or_false] at hx
    obtain rfl | rfl | rfl | rfl | rfl | rfl | rfl | rfl := hx <;> exact ⟨by simp [Params.namedCodes], rfl⟩
  obtain ⟨hnamed, hexec⟩ := hcommand
  obtain ⟨es, u, t, hd, hu, hbuild, ht⟩ := hostCommand_of_named (ready_of_inv hs) hnamed g a pl
  obtain ⟨hact, hhp⟩ := hostCommand_lastActivity_hp ht
  have hpieces : t = s.withHrx t := eq_withHrx (hostCommand_withoutHrx ht)
  rw [State.withHrx, hact, hhp] at hpieces
  exact ⟨es, u, t, hd, hu, hbuild, hexec.trans ht, hact, hpieces⟩

/-- Settles O55: no instruction writes the configuration, and neither do the reset and the refusal of a word. -/
theorem configurationNeverChanges : Obligations.ConfigurationNeverChanges := by
  intro s t h
  obtain ⟨-, ⟨-, rfl⟩ | ⟨rest, -, rfl⟩ | ⟨a, w, rest, -, ⟨i, -, hexec⟩ | ⟨e, -, rfl⟩⟩⟩ := step_eq_next.1 h
  · rfl
  · rfl
  · exact (exec_sameOutside hexec).params
  · rfl

/-- Settles O4: accepting a word that decodes is running the instruction. -/
theorem stepRunsTheDecodedInstruction : Obligations.StepRunsTheDecodedInstruction := by
  intro s a w rest i hok hport hdecode
  rw [step_of_word hok hport, acceptWord, hdecode]
  rfl

/-- Settles O5: a step accepts the next input, and there is none. -/
theorem stepWithoutInputHoldsState : Obligations.StepWithoutInputHoldsState :=
  fun _ hok hport => step_eq_next.2 ⟨hok, .inl ⟨hport, rfl⟩⟩

/-- Reset meets the invariant in every well-formed configuration: it is within its bounds, no mask has a bit and no job is active. -/
theorem resetWith_inv {p : Params} (hok : p.ok = true) : (State.resetWith p).Inv := by
  obtain ⟨-, hbounds⟩ := State.ready_iff.1 (resetWith_ready (p.ok_iff.1 hok))
  obtain ⟨htrig, -⟩ := triggeredStaysWithinAlive
  obtain ⟨hjobs, -⟩ := activeJobsStayUnique
  have hzero : (State.resetWith p).BitZeroClear :=
    ⟨BitVec.getLsbD_zero, BitVec.getLsbD_zero, BitVec.getLsbD_zero, BitVec.getLsbD_zero⟩
  exact ⟨hok, hbounds, htrig p, hzero, hjobs p⟩

/-- Settles O50: the test configuration, which `State.reset` holds, is a well-formed one. -/
theorem resetMeetsTheInvariant : Obligations.ResetMeetsTheInvariant :=
  have hok : testConfiguration.ok = true := by decide
  ⟨resetWith_inv hok, fun _ => resetWith_inv⟩

end Sys2Proof.Machine
end
